-- ==== Sys2Proof/Word.lean ====
section
/-! DEFINITION. The word types of the machine (spec/00_scope.md R6, spec/10_state.md R10, R13, R14):
8-bit register and memory values, 16-bit words and addresses, and the operand types of an instruction word. -/

namespace Sys2Proof

/-- A register value or a memory byte, unsigned, 0 to 255 (R10, R40). -/
abbrev Byte := BitVec 8

/-- A 16-bit value: an instruction word, `I`, `pc`, a stack entry (R13, R14, R17, R60). -/
abbrev Word := BitVec 16

/-- The `nnn` field of an instruction word (R61). -/
abbrev Addr12 := BitVec 12

/-- A general register's number, 0 to 15; `VF` is register 15 (R10). -/
abbrev Reg := Fin 16

/-- `VF`, the 16th general register, which several instructions use as their flag (R11). -/
abbrev VF : Reg := 15

end Sys2Proof
end

