-- ==== Sys2Proof/Syntax.lean ====
section
/-! DEFINITION. The instructions: one constructor for each of the 35 rows of spec/opcode_table.json
(spec/30_encoding.md R65). An operand is what the row's format names (R62): `x` and `y` register numbers,
`kk` a byte, `nnn` a 12-bit address, `n` a row count. A nibble the instruction ignores is no operand. -/

namespace Sys2Proof

inductive Instr where
  /-- 00E0 `CLS` (R141) -/
  | cls
  /-- 00EE `RET` (R91) -/
  | ret
  /-- 0nnn `SYS addr`, other than 00E0 and 00EE (R66, R84) -/
  | sys (nnn : Addr12)
  /-- 1nnn `JP addr` (R92) -/
  | jp (nnn : Addr12)
  /-- 2nnn `CALL addr` (R93) -/
  | call (nnn : Addr12)
  /-- 3xkk `SE Vx,kk` (R94) -/
  | seVxKk (x : Reg) (kk : Byte)
  /-- 4xkk `SNE Vx,kk` (R95) -/
  | sneVxKk (x : Reg) (kk : Byte)
  /-- 5xy? `SE Vx,Vy` (R96) -/
  | seVxVy (x y : Reg)
  /-- 6xkk `LD Vx,kk` (R112) -/
  | ldVxKk (x : Reg) (kk : Byte)
  /-- 7xkk `ADD Vx,kk` (R113) -/
  | addVxKk (x : Reg) (kk : Byte)
  /-- 8xy0 `LD Vx,Vy` (R114) -/
  | ldVxVy (x y : Reg)
  /-- 8xy1 `OR Vx,Vy` (R115) -/
  | orVxVy (x y : Reg)
  /-- 8xy2 `AND Vx,Vy` (R116) -/
  | andVxVy (x y : Reg)
  /-- 8xy3 `XOR Vx,Vy` (R117) -/
  | xorVxVy (x y : Reg)
  /-- 8xy4 `ADD Vx,Vy` (R118) -/
  | addVxVy (x y : Reg)
  /-- 8xy5 `SUB Vx,Vy` (R119) -/
  | subVxVy (x y : Reg)
  /-- 8x?6 `SHR Vx` (R120) -/
  | shrVx (x : Reg)
  /-- 8xy7 `SUBN Vx,Vy` (R121) -/
  | subnVxVy (x y : Reg)
  /-- 8x?E `SHL Vx` (R122) -/
  | shlVx (x : Reg)
  /-- 9xy? `SNE Vx,Vy` (R97) -/
  | sneVxVy (x y : Reg)
  /-- Annn `LD I,addr` (R131) -/
  | ldI (nnn : Addr12)
  /-- Bnnn `JP V0,addr` (R98) -/
  | jpV0 (nnn : Addr12)
  /-- Cxkk `RND Vx,kk` (R123) -/
  | rndVxKk (x : Reg) (kk : Byte)
  /-- Dxyn `DRW Vx,Vy,n` (R142) -/
  | drw (x y : Reg) (n : Fin 16)
  /-- Ex9E `SKP Vx` (R150) -/
  | skp (x : Reg)
  /-- ExA1 `SKNP Vx` (R151) -/
  | sknp (x : Reg)
  /-- Fx07 `LD Vx,DT` (R153) -/
  | ldVxDt (x : Reg)
  /-- Fx0A `LD Vx,K` (R152) -/
  | ldVxK (x : Reg)
  /-- Fx15 `LD DT,Vx` (R154) -/
  | ldDtVx (x : Reg)
  /-- Fx18 `LD ST,Vx` (R155) -/
  | ldStVx (x : Reg)
  /-- Fx1E `ADD I,Vx` (R132) -/
  | addIVx (x : Reg)
  /-- Fx29 `LD F,Vx` (R133) -/
  | ldFVx (x : Reg)
  /-- Fx33 `LD B,Vx` (R134) -/
  | ldBVx (x : Reg)
  /-- Fx55 `LD [I],Vx` (R135) -/
  | ldMemVx (x : Reg)
  /-- Fx65 `LD Vx,[I]` (R136) -/
  | ldVxMem (x : Reg)
  deriving DecidableEq, Repr

end Sys2Proof
end

