-- ==== Sys2Proof/WellFormed.lean ====
section
/-! DEFINITION. Which terms of `Instr` are instructions. Every operand's type already holds exactly the values its
field can hold (spec/30_encoding.md R61), so one check is left: `SYS addr` is "every other word with high nibble 0"
(R66), so its address is neither 0x0E0 nor 0x0EE, which are the words of `CLS` and `RET`. -/

namespace Sys2Proof

def Instr.wellFormed : Instr → Bool
  | .sys nnn => nnn != 0x0E0#12 && nnn != 0x0EE#12
  | .cls | .ret | .jp _ | .call _ | .seVxKk _ _ | .sneVxKk _ _ | .seVxVy _ _ | .ldVxKk _ _ | .addVxKk _ _
  | .ldVxVy _ _ | .orVxVy _ _ | .andVxVy _ _ | .xorVxVy _ _ | .addVxVy _ _ | .subVxVy _ _ | .shrVx _
  | .subnVxVy _ _ | .shlVx _ | .sneVxVy _ _ | .ldI _ | .jpV0 _ | .rndVxKk _ _ | .drw _ _ _ | .skp _ | .sknp _
  | .ldVxDt _ | .ldVxK _ | .ldDtVx _ | .ldStVx _ | .addIVx _ | .ldFVx _ | .ldBVx _ | .ldMemVx _ | .ldVxMem _ => true

end Sys2Proof
end

