-- ==== Sys2Proof/Decode.lean ====
section
/-! DEFINITION. Decoding and encoding (spec/30_encoding.md): the fields of an instruction word (R61), the two-level
dispatch (R64, R66 to R70), the opcode map as data (R65), and an encoder written from the same encodings (R72).
Decoding is total: an instruction, or a rejection that names the sub-case the word fails to match (R71). -/

namespace Sys2Proof

/-- Why a byte sequence holds no instruction. The first three are the undefined words of R71; the engine runs such a
word as a no-op (R83), which is the step's business and not the decoder's. -/
inductive Undefined where
  /-- fewer than the two bytes of a word -/
  | truncated
  /-- 8xyn with n in 8, 9, A, B, C, D, F (R67) -/
  | family8 (n : Fin 16)
  /-- Exkk with kk other than 9E, A1 (R69) -/
  | familyE (kk : Byte)
  /-- Fxkk with kk outside the nine of R70 -/
  | familyF (kk : Byte)
  deriving DecidableEq, Repr

/-! ## Fields (R61) -/

/-- `op`, bits 15..12 -/
def opField (w : Word) : BitVec 4 := w.extractLsb' 12 4
/-- `x`, bits 11..8 -/
def xField (w : Word) : Reg := (w.extractLsb' 8 4).toFin
/-- `y`, bits 7..4 -/
def yField (w : Word) : Reg := (w.extractLsb' 4 4).toFin
/-- `n`, bits 3..0 -/
def nField (w : Word) : Fin 16 := (w.extractLsb' 0 4).toFin
/-- `kk`, bits 7..0 -/
def kkField (w : Word) : Byte := w.extractLsb' 0 8
/-- `nnn`, bits 11..0 -/
def nnnField (w : Word) : Addr12 := w.extractLsb' 0 12

/-- A word from its two bytes, the first one in bits 15..8 (R42, R60). -/
def wordOfBytes (hi lo : Byte) : Word := hi ++ lo
/-- The byte of a word stored at the lower address (R42). -/
def highByte (w : Word) : Byte := w.extractLsb' 8 8
/-- The byte of a word stored at the higher address (R42). -/
def lowByte (w : Word) : Byte := w.extractLsb' 0 8

/-! ## Dispatch (R64) -/

/-- Family 0x0 is selected by the whole word (R64, R66). -/
def decodeFamily0 (w : Word) : Instr :=
  if w = 0x00E0#16 then .cls
  else if w = 0x00EE#16 then .ret
  else .sys (nnnField w)

/-- Family 0x8 is selected by `n` (R67). -/
def decodeFamily8 (w : Word) : Except Undefined Instr :=
  match (nField w).val with
  | 0x0 => .ok (.ldVxVy (xField w) (yField w))
  | 0x1 => .ok (.orVxVy (xField w) (yField w))
  | 0x2 => .ok (.andVxVy (xField w) (yField w))
  | 0x3 => .ok (.xorVxVy (xField w) (yField w))
  | 0x4 => .ok (.addVxVy (xField w) (yField w))
  | 0x5 => .ok (.subVxVy (xField w) (yField w))
  | 0x6 => .ok (.shrVx (xField w))
  | 0x7 => .ok (.subnVxVy (xField w) (yField w))
  | 0xE => .ok (.shlVx (xField w))
  | _ => .error (.family8 (nField w))

/-- Family 0xE is selected by `kk` (R69). -/
def decodeFamilyE (w : Word) : Except Undefined Instr :=
  match (kkField w).toNat with
  | 0x9E => .ok (.skp (xField w))
  | 0xA1 => .ok (.sknp (xField w))
  | _ => .error (.familyE (kkField w))

/-- Family 0xF is selected by `kk` (R70). -/
def decodeFamilyF (w : Word) : Except Undefined Instr :=
  match (kkField w).toNat with
  | 0x07 => .ok (.ldVxDt (xField w))
  | 0x0A => .ok (.ldVxK (xField w))
  | 0x15 => .ok (.ldDtVx (xField w))
  | 0x18 => .ok (.ldStVx (xField w))
  | 0x1E => .ok (.addIVx (xField w))
  | 0x29 => .ok (.ldFVx (xField w))
  | 0x33 => .ok (.ldBVx (xField w))
  | 0x55 => .ok (.ldMemVx (xField w))
  | 0x65 => .ok (.ldVxMem (xField w))
  | _ => .error (.familyF (kkField w))

/-- Primary selection on the high nibble, the four families further by their discriminators (R64). -/
def decodeWord (w : Word) : Except Undefined Instr :=
  match (opField w).toNat with
  | 0x0 => .ok (decodeFamily0 w)
  | 0x1 => .ok (.jp (nnnField w))
  | 0x2 => .ok (.call (nnnField w))
  | 0x3 => .ok (.seVxKk (xField w) (kkField w))
  | 0x4 => .ok (.sneVxKk (xField w) (kkField w))
  | 0x5 => .ok (.seVxVy (xField w) (yField w))
  | 0x6 => .ok (.ldVxKk (xField w) (kkField w))
  | 0x7 => .ok (.addVxKk (xField w) (kkField w))
  | 0x8 => decodeFamily8 w
  | 0x9 => .ok (.sneVxVy (xField w) (yField w))
  | 0xA => .ok (.ldI (nnnField w))
  | 0xB => .ok (.jpV0 (nnnField w))
  | 0xC => .ok (.rndVxKk (xField w) (kkField w))
  | 0xD => .ok (.drw (xField w) (yField w) (nField w))
  | 0xE => decodeFamilyE w
  | _ => decodeFamilyF w

/-- The instruction at the front of a byte sequence and the bytes after it (R60). -/
def decode : List Byte → Except Undefined (Instr × List Byte)
  | hi :: lo :: rest => (decodeWord (wordOfBytes hi lo)).map fun i => (i, rest)
  | _ => .error .truncated

/-! ## Encoding (R65, R72) -/

/-- Format `NNN`: op[4] nnn[12] (R62). -/
def formatNNN (op : BitVec 4) (nnn : Addr12) : Word := op ++ nnn
/-- Formats `XKK` and `XSS`: op[4] x[4] kk[8] (R62). -/
def formatXKK (op : BitVec 4) (x : Reg) (kk : Byte) : Word := op ++ (BitVec.ofFin (w := 4) x ++ kk)
/-- Format `XYN`: op[4] x[4] y[4] n[4] (R62). -/
def formatXYN (op : BitVec 4) (x y : Reg) (n : Fin 16) : Word :=
  op ++ (BitVec.ofFin (w := 4) x ++ (BitVec.ofFin (w := 4) y ++ BitVec.ofFin (w := 4) n))

/-- The word of an instruction; a nibble the instruction ignores is 0 (R72). -/
def encode : Instr → Word
  | .cls => 0x00E0#16
  | .ret => 0x00EE#16
  | .sys nnn => formatNNN 0x0#4 nnn
  | .jp nnn => formatNNN 0x1#4 nnn
  | .call nnn => formatNNN 0x2#4 nnn
  | .seVxKk x kk => formatXKK 0x3#4 x kk
  | .sneVxKk x kk => formatXKK 0x4#4 x kk
  | .seVxVy x y => formatXYN 0x5#4 x y 0
  | .ldVxKk x kk => formatXKK 0x6#4 x kk
  | .addVxKk x kk => formatXKK 0x7#4 x kk
  | .ldVxVy x y => formatXYN 0x8#4 x y 0x0
  | .orVxVy x y => formatXYN 0x8#4 x y 0x1
  | .andVxVy x y => formatXYN 0x8#4 x y 0x2
  | .xorVxVy x y => formatXYN 0x8#4 x y 0x3
  | .addVxVy x y => formatXYN 0x8#4 x y 0x4
  | .subVxVy x y => formatXYN 0x8#4 x y 0x5
  | .shrVx x => formatXYN 0x8#4 x 0 0x6
  | .subnVxVy x y => formatXYN 0x8#4 x y 0x7
  | .shlVx x => formatXYN 0x8#4 x 0 0xE
  | .sneVxVy x y => formatXYN 0x9#4 x y 0
  | .ldI nnn => formatNNN 0xA#4 nnn
  | .jpV0 nnn => formatNNN 0xB#4 nnn
  | .rndVxKk x kk => formatXKK 0xC#4 x kk
  | .drw x y n => formatXYN 0xD#4 x y n
  | .skp x => formatXKK 0xE#4 x 0x9E#8
  | .sknp x => formatXKK 0xE#4 x 0xA1#8
  | .ldVxDt x => formatXKK 0xF#4 x 0x07#8
  | .ldVxK x => formatXKK 0xF#4 x 0x0A#8
  | .ldDtVx x => formatXKK 0xF#4 x 0x15#8
  | .ldStVx x => formatXKK 0xF#4 x 0x18#8
  | .addIVx x => formatXKK 0xF#4 x 0x1E#8
  | .ldFVx x => formatXKK 0xF#4 x 0x29#8
  | .ldBVx x => formatXKK 0xF#4 x 0x33#8
  | .ldMemVx x => formatXKK 0xF#4 x 0x55#8
  | .ldVxMem x => formatXKK 0xF#4 x 0x65#8

/-- The instruction as it lies in memory, the high byte at the lower address (R42, R60). -/
def encodeBytes (i : Instr) : List Byte := [highByte (encode i), lowByte (encode i)]

/-! ## The opcode map as data (R65) -/

/-- A row of the map: the word `w` selects it when `w & mask = pattern`. -/
structure OpcodeRow where
  mnemonic : String
  mask : Word
  pattern : Word
  deriving DecidableEq, Repr

/-- Rows 1 to 10 of R65. `CLS` and `RET` stand before `SYS`, whose mask covers them (R66). -/
def opcodeRows0To7 : List OpcodeRow := [
  ⟨"CLS", 0xFFFF, 0x00E0⟩, ⟨"RET", 0xFFFF, 0x00EE⟩, ⟨"SYS_addr", 0xF000, 0x0000⟩, ⟨"JP_addr", 0xF000, 0x1000⟩,
  ⟨"CALL_addr", 0xF000, 0x2000⟩, ⟨"SE_Vx_kk", 0xF000, 0x3000⟩, ⟨"SNE_Vx_kk", 0xF000, 0x4000⟩,
  ⟨"SE_Vx_Vy", 0xF000, 0x5000⟩, ⟨"LD_Vx_kk", 0xF000, 0x6000⟩, ⟨"ADD_Vx_kk", 0xF000, 0x7000⟩]

/-- Rows 11 to 19 of R65. -/
def opcodeRows8 : List OpcodeRow := [
  ⟨"LD_Vx_Vy", 0xF00F, 0x8000⟩, ⟨"OR_Vx_Vy", 0xF00F, 0x8001⟩, ⟨"AND_Vx_Vy", 0xF00F, 0x8002⟩,
  ⟨"XOR_Vx_Vy", 0xF00F, 0x8003⟩, ⟨"ADD_Vx_Vy", 0xF00F, 0x8004⟩, ⟨"SUB_Vx_Vy", 0xF00F, 0x8005⟩,
  ⟨"SHR_Vx", 0xF00F, 0x8006⟩, ⟨"SUBN_Vx_Vy", 0xF00F, 0x8007⟩, ⟨"SHL_Vx", 0xF00F, 0x800E⟩]

/-- Rows 20 to 35 of R65. -/
def opcodeRows9ToF : List OpcodeRow := [
  ⟨"SNE_Vx_Vy", 0xF000, 0x9000⟩, ⟨"LD_I_addr", 0xF000, 0xA000⟩, ⟨"JP_V0_addr", 0xF000, 0xB000⟩,
  ⟨"RND_Vx_kk", 0xF000, 0xC000⟩, ⟨"DRW_Vx_Vy_n", 0xF000, 0xD000⟩, ⟨"SKP_Vx", 0xF0FF, 0xE09E⟩,
  ⟨"SKNP_Vx", 0xF0FF, 0xE0A1⟩, ⟨"LD_Vx_DT", 0xF0FF, 0xF007⟩, ⟨"LD_Vx_K", 0xF0FF, 0xF00A⟩,
  ⟨"LD_DT_Vx", 0xF0FF, 0xF015⟩, ⟨"LD_ST_Vx", 0xF0FF, 0xF018⟩, ⟨"ADD_I_Vx", 0xF0FF, 0xF01E⟩,
  ⟨"LD_F_Vx", 0xF0FF, 0xF029⟩, ⟨"LD_B_Vx", 0xF0FF, 0xF033⟩, ⟨"LD__I__Vx", 0xF0FF, 0xF055⟩,
  ⟨"LD_Vx__I", 0xF0FF, 0xF065⟩]

/-- The 35 rows in the order of R65. -/
def opcodeMap : List OpcodeRow := opcodeRows0To7 ++ opcodeRows8 ++ opcodeRows9ToF

/-- Does the word select the row (R65)? -/
def OpcodeRow.selects (r : OpcodeRow) (w : Word) : Bool := w &&& r.mask == r.pattern

/-- The row's mnemonic that the map gives a word, the first match in the order of R65 (R66). -/
def tableMnemonic (w : Word) : Option String := (opcodeMap.find? (·.selects w)).map (·.mnemonic)

/-- The mnemonic of an instruction, as spec/opcode_table.json spells it. -/
def Instr.mnemonic : Instr → String
  | .cls => "CLS"
  | .ret => "RET"
  | .sys _ => "SYS_addr"
  | .jp _ => "JP_addr"
  | .call _ => "CALL_addr"
  | .seVxKk _ _ => "SE_Vx_kk"
  | .sneVxKk _ _ => "SNE_Vx_kk"
  | .seVxVy _ _ => "SE_Vx_Vy"
  | .ldVxKk _ _ => "LD_Vx_kk"
  | .addVxKk _ _ => "ADD_Vx_kk"
  | .ldVxVy _ _ => "LD_Vx_Vy"
  | .orVxVy _ _ => "OR_Vx_Vy"
  | .andVxVy _ _ => "AND_Vx_Vy"
  | .xorVxVy _ _ => "XOR_Vx_Vy"
  | .addVxVy _ _ => "ADD_Vx_Vy"
  | .subVxVy _ _ => "SUB_Vx_Vy"
  | .shrVx _ => "SHR_Vx"
  | .subnVxVy _ _ => "SUBN_Vx_Vy"
  | .shlVx _ => "SHL_Vx"
  | .sneVxVy _ _ => "SNE_Vx_Vy"
  | .ldI _ => "LD_I_addr"
  | .jpV0 _ => "JP_V0_addr"
  | .rndVxKk _ _ => "RND_Vx_kk"
  | .drw _ _ _ => "DRW_Vx_Vy_n"
  | .skp _ => "SKP_Vx"
  | .sknp _ => "SKNP_Vx"
  | .ldVxDt _ => "LD_Vx_DT"
  | .ldVxK _ => "LD_Vx_K"
  | .ldDtVx _ => "LD_DT_Vx"
  | .ldStVx _ => "LD_ST_Vx"
  | .addIVx _ => "ADD_I_Vx"
  | .ldFVx _ => "LD_F_Vx"
  | .ldBVx _ => "LD_B_Vx"
  | .ldMemVx _ => "LD__I__Vx"
  | .ldVxMem _ => "LD_Vx__I"

/-! ## The table's words -/

/-- The bytes of a table word of `nbits` bits as memory holds them: the bits above `nbits` are 0, the one 16-bit word is
stored high byte first (R42, R60). -/
def tableBytes (nbits w : Nat) : List Byte :=
  let word : Word := BitVec.ofNat 16 (w % 2 ^ nbits)
  [highByte word, lowByte word]

/-- The instruction the decoder reads from a table word. -/
def decodeTableWord (nbits w : Nat) : Option Instr :=
  match decode (tableBytes nbits w) with
  | .ok (i, _) => some i
  | .error _ => none

end Sys2Proof
end

