-- ==== Sys2Proof/Config.lean ====
section
/-! DEFINITION. What an implementation fixes (the parameter table of spec/00_scope.md R5) and the free values
the spec leaves open: the inputs a host presents to a step (spec/10_state.md R19, R30). -/

namespace Sys2Proof

/-- `MEM_SIZE`: addresses 0x000 to 0xFFF (R5, R40). -/
@[simp] abbrev Config.memSize : Nat := 4096

/-- The highest memory address, 0xFFF (R40, R41). -/
@[simp] abbrev Config.lastAddr : Nat := 0xFFF

/-- The highest address an instruction word can be fetched from (R81). -/
@[simp] abbrev Config.lastFetch : Nat := 0xFFE

/-- `FONT_BASE`, where reset puts the fontset (R5, R182). -/
@[simp] abbrev Config.fontBase : Nat := 0x050

/-- `FONT_SIZE`: 16 glyphs of 5 bytes (R5). -/
@[simp] abbrev Config.fontSize : Nat := 80

/-- `LOAD_BASE`, the program load address and the reset value of `pc` (R5, R14). -/
@[simp] abbrev Config.loadBase : Nat := 0x200

/-- `MAX_PROGRAM`, 4096 - 512 bytes (R5, R184). -/
@[simp] abbrev Config.maxProgram : Nat := 3584

/-- `DISPLAY_WIDTH` (R5, R140). -/
@[simp] abbrev Config.displayWidth : Nat := 64

/-- `DISPLAY_HEIGHT` (R5, R140). -/
@[simp] abbrev Config.displayHeight : Nat := 32

/-- FREE VALUE: the 16 key states the host presents to the n-th step whose inputs no scripted operation names
(R19: "the spec puts no law on how they change between steps"). DESIGN CHOICE, log 2. -/
opaque Config.freeKeys : Nat → BitVec 16

/-- FREE VALUE: the random byte the host presents to the n-th step whose inputs no scripted operation names
(R30: "any of 0 to 255, under no law"). DESIGN CHOICE, log 2. -/
opaque Config.freeRnd : Nat → Byte

end Sys2Proof
end

