-- ==== Sys2Proof/Machine/Font.lean ====
section
/-! DEFINITION. `FONT`, the 80-byte glyph table (spec/70_reset_and_hazards.md R183: a parameter whose default is this
table; the bytes are the spec's from general knowledge, log 7), and what each memory address holds right after reset. -/

namespace Sys2Proof.Machine

/-- The glyphs of the digits 0 to 7, five bytes each, top row first (R183). -/
def fontLow : List Byte := [
  0xF0, 0x90, 0x90, 0x90, 0xF0, 0x20, 0x60, 0x20, 0x20, 0x70, 0xF0, 0x10, 0xF0, 0x80, 0xF0, 0xF0, 0x10, 0xF0, 0x10, 0xF0,
  0x90, 0x90, 0xF0, 0x10, 0x10, 0xF0, 0x80, 0xF0, 0x10, 0xF0, 0xF0, 0x80, 0xF0, 0x90, 0xF0, 0xF0, 0x10, 0x20, 0x40, 0x40]

/-- The glyphs of the digits 8 to F (R183). -/
def fontHigh : List Byte := [
  0xF0, 0x90, 0xF0, 0x90, 0xF0, 0xF0, 0x90, 0xF0, 0x10, 0xF0, 0xF0, 0x90, 0xF0, 0x90, 0x90, 0xE0, 0x90, 0xE0, 0x90, 0xE0,
  0xF0, 0x80, 0x80, 0x80, 0xF0, 0xE0, 0x90, 0x90, 0x90, 0xE0, 0xF0, 0x80, 0xF0, 0x80, 0xF0, 0xF0, 0x80, 0xF0, 0x80, 0x80]

def font : List Byte := fontLow ++ fontHigh

/-- What address `a` holds right after reset, and so what an address that memory does not list reads as (R180): the
fontset at 0x050 to 0x09F, zero everywhere else. -/
def resetByte (a : Nat) : Byte :=
  if Config.fontBase ≤ a ∧ a < Config.fontBase + Config.fontSize then font.getD (a - Config.fontBase) 0 else 0

end Sys2Proof.Machine
end

