-- ==== Sys2Proof/Machine/Memory.lean ====
section
/-! DEFINITION. The one memory of 4096 bytes (spec/20_memory.md R40, R41): the cells that differ from their reset
contents, in a canonical form, with the byte operations every access is built from. The range 0 to 0xFFF is checked by
the operations that take an address from the program (Machine/Ops.lean), before any byte is touched (R41, R130). -/

namespace Sys2Proof.Machine

/-- Cells in strictly rising address order, none equal to what the address holds right after reset. -/
abbrev Memory := List Host.Cell

/-- The canonical form: addresses inside 0x000 to 0xFFF and strictly rising, no entry equal to what an unlisted address
reads as. Equal memories are then equal lists. -/
def Memory.wf : Memory → Bool
  | [] => true
  | (a, v) :: m => decide (a < Config.memSize) && v != resetByte a && m.all (fun c => decide (a < c.1)) && Memory.wf m

/-- `MemRead(a, 1)` for an address in range (R41). -/
def Memory.read : Memory → Nat → Byte
  | [], a => resetByte a
  | (b, v) :: m, a => if b = a then v else Memory.read m a

/-- `MemWrite(a, 1, v)` for an address in range (R41); it keeps the canonical form. -/
def Memory.write : Memory → Nat → Byte → Memory
  | [], a, v => if v = resetByte a then [] else [(a, v)]
  | (b, u) :: m, a, v =>
    if a < b then (if v = resetByte a then (b, u) :: m else (a, v) :: (b, u) :: m)
    else if a = b then (if v = resetByte a then m else (a, v) :: m)
    else (b, u) :: Memory.write m a v

/-- `n` byte reads at ascending addresses from `base` (R43, R45). -/
def Memory.readAll (m : Memory) (base : Nat) : Nat → List Byte
  | 0 => []
  | n + 1 => m.read base :: Memory.readAll m (base + 1) n

/-- One byte write for each byte, at ascending addresses from `base` (R43, R45). -/
def Memory.writeAll (m : Memory) (base : Nat) : List Byte → Memory
  | [] => m
  | b :: bs => Memory.writeAll (m.write base b) (base + 1) bs

end Sys2Proof.Machine
end

