-- ==== Sys2Proof/Machine/State.lean ====
section
/-! DEFINITION. The state of the engine (spec/10_state.md R25, the complete list), its reset value
(spec/70_reset_and_hazards.md R180), and the reasons a step of the model can stop. Below the spec's own state stand the
model's fields for the engine's input ports and for the host, which INVENTORY.md lists apart. -/

namespace Sys2Proof.Machine

/-- The values of the `fault` latch (R22, R166). -/
inductive FaultCode where
  /-- `None`, code 0: the engine is not halted -/
  | none
  /-- code 1, raised by CALL with 16 entries in use (R160) -/
  | stackOverflow
  /-- code 2, raised by RET with an empty stack (R161) -/
  | stackUnderflow
  /-- code 3, raised by a fetch or a data access above 0xFFF (R162) -/
  | addressOutOfRange
  /-- code 4, raised by SKP and SKNP with a register above 15 (R165) -/
  | keyIndexOutOfRange
  deriving DecidableEq, Repr

/-- The four operations a host performs on the engine (R8, R26 to R28). -/
inductive HostOp where
  /-- `Reset` (R26) -/
  | reset
  /-- `Load(bytes)` (R27) -/
  | load (bytes : List Byte)
  /-- `Step(keys, rnd)` (R28): bit k of `keys` is key k, 1 = pressed (R19) -/
  | step (keys : BitVec 16) (rnd : Byte)
  /-- `Tick` (R28) -/
  | tick
  deriving DecidableEq, Repr

/-- What `Load` returns to the host (R184). -/
inductive LoadResult where
  /-- the bytes are in memory -/
  | ok
  /-- more than 3584 bytes: no state change at all -/
  | capacityExceeded
  deriving DecidableEq, Repr

/-- The 32 rows of the display, top row first; bit cx of a row is its column cx, so that cell `cy * 64 + cx` is bit cx of
row cy (R20; the representation is log 24) -/
abbrev DisplayRows := Vector (BitVec 64) 32

structure State where
  /-- the general registers V0 to VF (R10) -/
  V : Vector Byte 16
  /-- the index register (R13) -/
  I : Word
  /-- the program counter (R14) -/
  pc : Word
  /-- the number of stack entries in use, 0 to 16 (R17) -/
  sp : Fin 17
  /-- the return stack (R17) -/
  stack : Vector Word 16
  /-- the 4096 bytes of memory, what differs from the reset contents (R40) -/
  memory : Memory
  /-- the 2048 display cells (R20) -/
  display : DisplayRows
  /-- the delay timer (R21) -/
  DT : Byte
  /-- the sound timer (R21) -/
  ST : Byte
  /-- the sticky fault latch (R22) -/
  fault : FaultCode
  /-- MODEL'S OWN: the key-state input port as the step in progress sampled it (R19; log 3) -/
  keys : BitVec 16
  /-- MODEL'S OWN: the random-byte input port as the step in progress sampled it (R30; log 3) -/
  rnd : Byte
  /-- MODEL'S OWN: the host's operations still to come, the next one first (R8; log 1) -/
  script : List HostOp
  /-- MODEL'S OWN: how many steps have taken their inputs from the free values of Config (log 2) -/
  draws : Nat
  /-- MODEL'S OWN: may the host issue `Load` now (R184, R172; log 4) -/
  loadPermitted : Bool
  /-- MODEL'S OWN: what the last `Load` since `Reset` returned (R184; log 5) -/
  loadResult : Option LoadResult
  deriving DecidableEq, Repr

/-- Right after `Reset` (R180). The values of the model's own fields are DESIGN CHOICE, log 1 to 5. -/
def State.reset : State where
  V := Vector.replicate 16 0
  I := 0x0000
  pc := 0x0200
  sp := 0
  stack := Vector.replicate 16 0
  memory := []
  display := Vector.replicate 32 0
  DT := 0
  ST := 0
  fault := .none
  keys := 0
  rnd := 0
  script := []
  draws := 0
  loadPermitted := true
  loadResult := .none

/-- Why the model stops although no instruction of the engine does. The engine's own faults (R160 to R165) are no members:
they latch `FaultCode` in a next state and halt the engine (R163, R164). -/
inductive Fault where
  /-- Raised by the host operation `Load` after a `Step`, or a second time without `Reset`: "no move in a model" (R172,
  spec/93 U16). Safe: a run that contains such a `Load` stops instead of being given an effect. -/
  | loadOutOfOrder
  deriving DecidableEq, Repr

inductive Refusal where
  /-- Raised by `exec` for an instruction that has no meaning yet. Safe. No arm raises it now. -/
  | notModelled (mnemonic : String)
  deriving DecidableEq, Repr

/-- What one step, and every meaning, answers. -/
abbrev Result := Host.Outcome State Fault Refusal

end Sys2Proof.Machine
end

