-- ==== Sys2Proof/Machine/Ops.lean ====
section
/-! DEFINITION. The named reads and writes of the state, the block accesses to memory with their range check, the return
stack's operations, and taking a fault. Every meaning is written over these. -/

namespace Sys2Proof.Machine

/-! ## Reads -/

/-- `V[r]` (R7, R10) -/
def State.reg (s : State) (r : Reg) : Byte := s.V[r]
/-- `stack[k]` (R17) -/
def State.stackEntry (s : State) (k : Fin 16) : Word := s.stack[k]
/-- `MemRead(a, 1)`, defined for addresses 0 to 0xFFF (R41) -/
def State.byteAt (s : State) (a : Nat) : Byte := s.memory.read a
/-- Cell k of a display: column k mod 64 of row k div 64 (R20); no cell beyond 2047 -/
def displayCell (d : DisplayRows) (k : Nat) : Bool :=
  if h : k < 2048 then (d[k / 64]'(by omega)).getLsbD (k % 64) else false
/-- The display with cell k flipped -/
def flipCell (d : DisplayRows) (k : Nat) : DisplayRows :=
  if h : k < 2048 then d.set (k / 64) (d[k / 64]'(by omega) ^^^ BitVec.twoPow 64 (k % 64)) (by omega) else d
/-- Every cell off -/
def blankDisplay : DisplayRows := Vector.replicate 32 0
/-- `display[k]` (R20) -/
def State.cell (s : State) (k : Nat) : Bool := displayCell s.display k
/-- `keys[k]`, true = pressed (R19) -/
def State.keyDown (s : State) (k : Nat) : Bool := s.keys.getLsbD k
/-- The output `sound_on`: 1 exactly when ST > 0 (R29) -/
def State.soundOn (s : State) : Bool := decide (0 < s.ST.toNat)
/-- While `fault` is not `None` the engine is halted (R85). -/
def State.halted (s : State) : Bool := s.fault != .none
/-- The number of a fault code in the 3-bit latch (R22, R166) -/
def FaultCode.code : FaultCode → BitVec 3
  | .none => 0
  | .stackOverflow => 1
  | .stackUnderflow => 2
  | .addressOutOfRange => 3
  | .keyIndexOutOfRange => 4

/-! ## Writes: one field each -/

/-- `V[r] <- b` (R7) -/
def State.writeV (s : State) (r : Reg) (b : Byte) : State := { s with V := s.V.set r b }
/-- the whole register file at once, for LD Vx,[I] -/
def State.writeVs (s : State) (vs : Vector Byte 16) : State := { s with V := vs }
/-- `I <- w` -/
def State.writeI (s : State) (w : Word) : State := { s with I := w }
/-- `pc <- w` -/
def State.writePc (s : State) (w : Word) : State := { s with pc := w }
/-- `sp <- n` -/
def State.writeSp (s : State) (n : Fin 17) : State := { s with sp := n }
/-- `stack[k] <- w` -/
def State.writeStack (s : State) (k : Fin 16) (w : Word) : State := { s with stack := s.stack.set k w }
def State.writeMemory (s : State) (m : Memory) : State := { s with memory := m }
def State.writeDisplay (s : State) (d : DisplayRows) : State := { s with display := d }
/-- `DT <- b` -/
def State.writeDT (s : State) (b : Byte) : State := { s with DT := b }
/-- `ST <- b` -/
def State.writeST (s : State) (b : Byte) : State := { s with ST := b }
/-- `fault <- c` -/
def State.writeFault (s : State) (c : FaultCode) : State := { s with fault := c }
/-- The two inputs of a `Step`, sampled once at its start (R19, R30, R80) -/
def State.sampleInputs (s : State) (keys : BitVec 16) (rnd : Byte) : State := { s with keys := keys, rnd := rnd }
def State.writeScript (s : State) (ops : List HostOp) : State := { s with script := ops }
/-- How many steps have taken their inputs from the free values of Config (log 2) -/
def State.writeDraws (s : State) (n : Nat) : State := { s with draws := n }
def State.writeLoadPermitted (s : State) (b : Bool) : State := { s with loadPermitted := b }
def State.writeLoadResult (s : State) (r : Option LoadResult) : State := { s with loadResult := r }

/-! ## Program counter (R14 to R16) -/

/-- `pc <- (pc + 2) mod 0x10000`: the fetch's advance, and a skip's (R15, R16, R81) -/
def State.advancePc (s : State) : State := s.writePc (s.pc + 2)
/-- A skip: `pc` moves over exactly the next two bytes when the condition holds (R94 to R97, R188). -/
def State.skipIf (s : State) (c : Bool) : State := s.writePc (if c then s.pc + 2 else s.pc)
/-- `pc <- (pc - 2) mod 0x10000`: back to the executing instruction's own address (R152) -/
def State.rewindPc (s : State) : State := s.writePc (s.pc - 2)

/-! ## Taking a fault, and leaving it -/

/-- TAKING A FAULT (R163): the code is latched, "no other state changes"; `pc` keeps what it holds, which is the
instruction's address plus 2 once the fetch has advanced it, and the unfetchable address when the fetch itself faults.
There is no vector, no handler and no saved state; control goes nowhere, because the engine then halts (R85, R164). -/
def raise (c : FaultCode) (s : State) : Result := .next (s.writeFault c)

/-- LEAVING A FAULT: no instruction does; `Reset` alone clears the latch, with everything else (R164, R180). The host's
operations still to come are not the engine's and stay, and so does the count of free values already drawn (log 28). -/
def hostReset (s : State) : State := (State.reset.writeScript s.script).writeDraws s.draws

/-! ## Memory blocks with their range check (R41, R130) -/

/-- Are the `n` addresses from `base` all in range? The check is on the highest address, before any byte is touched; an
access of no byte has none (R41, R130, R146). Addresses are unbounded integers and never wrap (R41). -/
def blockInRange (base n : Nat) : Bool := n == 0 || decide (base + (n - 1) ≤ Config.lastAddr)

/-- The `n` bytes from `base`, or nothing if an address is out of range -/
def State.readBlock (s : State) (base n : Nat) : Option (List Byte) :=
  if blockInRange base n then some (s.memory.readAll base n) else none

/-- The state with the bytes stored from `base`, or nothing if an address is out of range; then no byte is stored -/
def State.writeBlock (s : State) (base : Nat) (bytes : List Byte) : Option State :=
  if blockInRange base bytes.length then some (s.writeMemory (s.memory.writeAll base bytes)) else none

/-! ## The return stack (R17, R18) -/

/-- `stack[sp] <- w; sp <- sp + 1`, or nothing when all 16 entries are in use (R18, R93) -/
def State.push (s : State) (w : Word) : Option State :=
  if h : s.sp.val < 16 then some ((s.writeStack ⟨s.sp.val, h⟩ w).writeSp ⟨s.sp.val + 1, by omega⟩) else none

/-- `sp <- sp - 1` and the entry it then names, or nothing when the stack is empty; the entry is not cleared (R18, R91) -/
def State.pop (s : State) : Option (Word × State) :=
  if h : 0 < s.sp.val then
    some (s.stackEntry ⟨s.sp.val - 1, by omega⟩, s.writeSp ⟨s.sp.val - 1, by omega⟩)
  else none

end Sys2Proof.Machine
end

