-- ==== Sys2Proof/Machine/Operands.lean ====
section
/-! DEFINITION. How an instruction forms the values it works on: immediates (spec/30_encoding.md R63), addresses through
`I` and in the fontset (spec/43_index_memory.md R130, R133), decimal digits (R134), the ALU's results
(spec/42_alu.md R111), and the keys (spec/45_keypad_timers.md R150 to R152). -/

namespace Sys2Proof.Machine

/-- `zext_16(nnn)` (R6, R63) -/
def zextAddr (nnn : Addr12) : Word := nnn.zeroExtend 16
/-- `zext_16(b)` (R6) -/
def zextByte (b : Byte) : Word := b.zeroExtend 16

/-- The address of a memory instruction's first byte: `I`, as an unbounded integer (R41, R130) -/
def indexAddr (s : State) : Nat := s.I.toNat

/-- `0x050 + 5 * a`, with the whole 8-bit value and no mask (R133) -/
def glyphAddr (a : Byte) : Word := BitVec.ofNat 16 (Config.fontBase + 5 * a.toNat)

/-- Hundreds, tens and ones of a byte, as numbers 0 to 9 (R134) -/
def decimalDigits (a : Byte) : List Byte :=
  [BitVec.ofNat 8 (a.toNat / 100), BitVec.ofNat 8 (a.toNat / 10 % 10), BitVec.ofNat 8 (a.toNat % 10)]

/-- `V[0]` to `V[x]`, the registers a block transfer names (R135, R136) -/
def firstRegs (s : State) (x : Reg) : List Byte := s.V.toList.take (x.val + 1)

/-- `V[k] <- b` for the bytes in order, from register `k` on (R136) -/
def loadRegs (vs : Vector Byte 16) (k : Nat) : List Byte → Vector Byte 16
  | [] => vs
  | b :: bs => loadRegs (vs.setIfInBounds k b) (k + 1) bs

/-- The low 8 bits of the 9-bit sum (R111, R118) -/
def addResult (a b : Byte) : Byte := BitVec.ofNat 8 (a.toNat + b.toNat)
/-- `(a - b) mod 256` (R111, R119) -/
def subResult (a b : Byte) : Byte := a - b
/-- `a >> 1`, the vacated bit 0 (R111, R120) -/
def shrResult (a : Byte) : Byte := a >>> 1
/-- `(a << 1) mod 256`, the vacated bit 0 (R111, R122) -/
def shlResult (a : Byte) : Byte := a <<< 1

/-- The key an 8-bit value names, if it is one of the 16; the value is not masked (R156) -/
def keyIndex (a : Byte) : Option (Fin 16) := if h : a.toNat < 16 then some ⟨a.toNat, h⟩ else none

/-- The least key that is down: "scans keypad 0..15 for the first pressed key" (R152) -/
def firstKeyDown (s : State) : Option Nat := (List.range 16).find? (fun k => s.keyDown k)

end Sys2Proof.Machine
end

