-- ==== Sys2Proof/Machine/Flags.lean ====
section
/-! DEFINITION. The flag computations: what each flag-writing instruction leaves in `VF` (spec/10_state.md R11, R12,
spec/42_alu.md R111). A flag is computed from the latched operands (R110) and is the byte 0 or 1 (R12). -/

namespace Sys2Proof.Machine

/-- A flag as `VF` holds it (R12) -/
def flagByte (c : Bool) : Byte := if c then 1 else 0

/-- The carry of ADD Vx,Vy: the 9-bit sum exceeds 255 (R118) -/
def carryFlag (a b : Byte) : Bool := decide (a.toNat + b.toNat > 255)
/-- The flag of SUB and SUBN: minuend strictly greater than subtrahend, so 0 at equality (R111; log 17) -/
def greaterFlag (a b : Byte) : Bool := decide (a.toNat > b.toNat)
/-- The bit SHR shifts out: bit 0 before the shift (R120) -/
def shrFlag (a : Byte) : Bool := a.getLsbD 0
/-- The bit SHL shifts out: bit 7 before the shift (R122) -/
def shlFlag (a : Byte) : Bool := a.getLsbD 7

/-- The two writes of a flag-writing ALU instruction, `VF` first and `V[x]` second, so that with x = 15 the result stays
(R110; log 16) -/
def State.writeFlagThenV (s : State) (c : Bool) (x : Reg) (result : Byte) : State :=
  (s.writeV VF (flagByte c)).writeV x result

end Sys2Proof.Machine
end

