-- ==== Sys2Proof/Machine/Alu.lean ====
section
/-! DEFINITION. Register loads, the 8-bit ALU and RND (spec/42_alu.md). Operands are read from the state before any
write (R110). -/

namespace Sys2Proof.Machine

/-- LD Vx,kk (R112) -/
def execLdVxKk (x : Reg) (kk : Byte) (s : State) : Result := .next (s.writeV x kk)

/-- ADD Vx,kk: 8-bit wraparound, no flag (R113) -/
def execAddVxKk (x : Reg) (kk : Byte) (s : State) : Result := .next (s.writeV x (addResult (s.reg x) kk))

/-- LD Vx,Vy (R114) -/
def execLdVxVy (x y : Reg) (s : State) : Result := .next (s.writeV x (s.reg y))

/-- OR Vx,Vy (R115) -/
def execOrVxVy (x y : Reg) (s : State) : Result := .next (s.writeV x (s.reg x ||| s.reg y))

/-- AND Vx,Vy (R116) -/
def execAndVxVy (x y : Reg) (s : State) : Result := .next (s.writeV x (s.reg x &&& s.reg y))

/-- XOR Vx,Vy (R117) -/
def execXorVxVy (x y : Reg) (s : State) : Result := .next (s.writeV x (s.reg x ^^^ s.reg y))

/-- ADD Vx,Vy (R118) -/
def execAddVxVy (x y : Reg) (s : State) : Result :=
  .next (s.writeFlagThenV (carryFlag (s.reg x) (s.reg y)) x (addResult (s.reg x) (s.reg y)))

/-- SUB Vx,Vy (R119) -/
def execSubVxVy (x y : Reg) (s : State) : Result :=
  .next (s.writeFlagThenV (greaterFlag (s.reg x) (s.reg y)) x (subResult (s.reg x) (s.reg y)))

/-- SHR Vx (R120) -/
def execShrVx (x : Reg) (s : State) : Result := .next (s.writeFlagThenV (shrFlag (s.reg x)) x (shrResult (s.reg x)))

/-- SUBN Vx,Vy (R121) -/
def execSubnVxVy (x y : Reg) (s : State) : Result :=
  .next (s.writeFlagThenV (greaterFlag (s.reg y) (s.reg x)) x (subResult (s.reg y) (s.reg x)))

/-- SHL Vx (R122) -/
def execShlVx (x : Reg) (s : State) : Result := .next (s.writeFlagThenV (shlFlag (s.reg x)) x (shlResult (s.reg x)))

/-- RND Vx,kk, from the random byte sampled for this step (R123) -/
def execRndVxKk (x : Reg) (kk : Byte) (s : State) : Result := .next (s.writeV x (s.rnd &&& kk))

end Sys2Proof.Machine
end

