-- ==== Sys2Proof/Machine/Control.lean ====
section
/-! DEFINITION. Control transfer (spec/41_control_flow.md) and SYS (spec/40_fetch_dispatch.md R84). In every meaning `pc`
already holds the instruction's address plus 2 (R90). -/

namespace Sys2Proof.Machine

/-- An undefined word: nothing after the fetch (R83) -/
def execUndefined (s : State) : Result := .next s

/-- SYS addr: nothing after the fetch (R84) -/
def execSys (_nnn : Addr12) (s : State) : Result := .next s

/-- RET (R91) -/
def execRet (s : State) : Result :=
  match s.pop with
  | none => raise .stackUnderflow s
  | some (w, t) => .next (t.writePc w)

/-- JP addr (R92) -/
def execJp (nnn : Addr12) (s : State) : Result := .next (s.writePc (zextAddr nnn))

/-- CALL addr (R93) -/
def execCall (nnn : Addr12) (s : State) : Result :=
  match s.push s.pc with
  | none => raise .stackOverflow s
  | some t => .next (t.writePc (zextAddr nnn))

/-- SE Vx,kk (R94) -/
def execSeVxKk (x : Reg) (kk : Byte) (s : State) : Result := .next (s.skipIf (s.reg x == kk))

/-- SNE Vx,kk (R95) -/
def execSneVxKk (x : Reg) (kk : Byte) (s : State) : Result := .next (s.skipIf (s.reg x != kk))

/-- SE Vx,Vy (R96) -/
def execSeVxVy (x y : Reg) (s : State) : Result := .next (s.skipIf (s.reg x == s.reg y))

/-- SNE Vx,Vy (R97) -/
def execSneVxVy (x y : Reg) (s : State) : Result := .next (s.skipIf (s.reg x != s.reg y))

/-- JP V0,addr: the sum is not reduced to 12 bits (R98) -/
def execJpV0 (nnn : Addr12) (s : State) : Result := .next (s.writePc (zextAddr nnn + zextByte (s.reg 0)))

end Sys2Proof.Machine
end

