-- ==== Sys2Proof/Machine/Display.lean ====
section
/-! DEFINITION. The display, CLS and the XOR-blitter (spec/44_display.md). -/

namespace Sys2Proof.Machine

/-- The display being drawn on and whether a collision has been met so far -/
abbrev Canvas := DisplayRows × Bool

/-- `cy * 64 + cx`, the cell at column `cx` and row `cy` (R20, R140) -/
def cellIndex (cx cy : Nat) : Nat := cy * Config.displayWidth + cx

/-- Bit of a sprite byte at column offset `c`: bit 7 is the leftmost pixel (R145) -/
def spriteBit (byte : Byte) (c : Nat) : Bool := byte.getLsbD (7 - c)

/-- One pixel: dropped off the grid (R143), else tested for collision and then flipped (R144) -/
def drawPixel (cx cy : Nat) (bit : Bool) (canvas : Canvas) : Canvas :=
  if bit ∧ cx < Config.displayWidth ∧ cy < Config.displayHeight then
    (flipCell canvas.1 (cellIndex cx cy), canvas.2 || displayCell canvas.1 (cellIndex cx cy))
  else canvas

/-- The eight pixels of a row, left to right (R142) -/
def drawRow (x0 cy : Nat) (byte : Byte) (canvas : Canvas) : Canvas :=
  (List.range 8).foldl (fun acc c => drawPixel (x0 + c) cy (spriteBit byte c) acc) canvas

/-- The rows, top row first (R142) -/
def drawRows (x0 cy : Nat) : List Byte → Canvas → Canvas
  | [], canvas => canvas
  | byte :: rows, canvas => drawRows x0 (cy + 1) rows (drawRow x0 cy byte canvas)

/-- The origin's column: `V[x] mod 64` (R142, R53) -/
def originColumn (a : Byte) : Nat := a.toNat % Config.displayWidth
/-- The origin's row: `V[y] mod 32` (R142, R53) -/
def originRow (b : Byte) : Nat := b.toNat % Config.displayHeight

/-- CLS (R141) -/
def execCls (s : State) : Result := .next (s.writeDisplay blankDisplay)

/-- DRW Vx,Vy,n: the range check first, over all n rows; the position from the latched registers; `VF` cleared before
the draw and set on a collision, which is what the canvas carries from `false` on (R142) -/
def execDrw (x y : Reg) (n : Fin 16) (s : State) : Result :=
  match s.readBlock (indexAddr s) n.val with
  | none => raise .addressOutOfRange s
  | some rows =>
    .next ((s.writeDisplay (drawRows (originColumn (s.reg x)) (originRow (s.reg y)) rows (s.display, false)).1).writeV VF
      (flagByte (drawRows (originColumn (s.reg x)) (originRow (s.reg y)) rows (s.display, false)).2))

end Sys2Proof.Machine
end

