-- ==== Sys2Proof/Machine/IndexMemory.lean ====
section
/-! DEFINITION. The index register, loads and stores (spec/43_index_memory.md). `I` is changed by none of the three that
access memory through it (R130). -/

namespace Sys2Proof.Machine

/-- LD I,addr (R131) -/
def execLdI (nnn : Addr12) (s : State) : Result := .next (s.writeI (zextAddr nnn))

/-- ADD I,Vx: modulo 2^16, no flag (R132) -/
def execAddIVx (x : Reg) (s : State) : Result := .next (s.writeI (s.I + zextByte (s.reg x)))

/-- LD F,Vx (R133) -/
def execLdFVx (x : Reg) (s : State) : Result := .next (s.writeI (glyphAddr (s.reg x)))

/-- Storing a block from `I` on: the form LD B,Vx and LD [I],Vx share (R134, R135) -/
def storeFromIndex (bytes : List Byte) (s : State) : Result :=
  match s.writeBlock (indexAddr s) bytes with
  | none => raise .addressOutOfRange s
  | some t => .next t

/-- LD B,Vx (R134) -/
def execLdBVx (x : Reg) (s : State) : Result := storeFromIndex (decimalDigits (s.reg x)) s

/-- LD [I],Vx (R135) -/
def execLdMemVx (x : Reg) (s : State) : Result := storeFromIndex (firstRegs s x) s

/-- LD Vx,[I] (R136) -/
def execLdVxMem (x : Reg) (s : State) : Result :=
  match s.readBlock (indexAddr s) (x.val + 1) with
  | none => raise .addressOutOfRange s
  | some bytes => .next (s.writeVs (loadRegs s.V 0 bytes))

end Sys2Proof.Machine
end

