-- ==== Sys2Proof/Machine/KeypadTimers.lean ====
section
/-! DEFINITION. The keypad and timer instructions (spec/45_keypad_timers.md). -/

namespace Sys2Proof.Machine

/-- A skip on the level of the key a register names: the form SKP and SKNP share (R150, R151, R156) -/
def skipOnKey (x : Reg) (pressed : Bool) (s : State) : Result :=
  match keyIndex (s.reg x) with
  | none => raise .keyIndexOutOfRange s
  | some k => .next (s.skipIf (s.keyDown k == pressed))

/-- SKP Vx (R150) -/
def execSkp (x : Reg) (s : State) : Result := skipOnKey x true s

/-- SKNP Vx (R151) -/
def execSknp (x : Reg) (s : State) : Result := skipOnKey x false s

/-- LD Vx,K: the least key down, or `pc` back to this instruction (R152) -/
def execLdVxK (x : Reg) (s : State) : Result :=
  .next (match firstKeyDown s with
    | some k => s.writeV x (BitVec.ofNat 8 k)
    | none => s.rewindPc)

/-- LD Vx,DT (R153) -/
def execLdVxDt (x : Reg) (s : State) : Result := .next (s.writeV x s.DT)

/-- LD DT,Vx (R154) -/
def execLdDtVx (x : Reg) (s : State) : Result := .next (s.writeDT (s.reg x))

/-- LD ST,Vx (R155) -/
def execLdStVx (x : Reg) (s : State) : Result := .next (s.writeST (s.reg x))

end Sys2Proof.Machine
end

