-- ==== Sys2Proof/Machine/Engine.lean ====
section
/-! DEFINITION. The four operations a host performs (spec/00_scope.md R8): `Reset` is Ops' hostReset; here are `Tick`
(spec/45_keypad_timers.md R157), `Load` (spec/70_reset_and_hazards.md R184) and `Step` with its fetch
(spec/40_fetch_dispatch.md R80, R81). -/

namespace Sys2Proof.Machine

/-! ## Tick -/

/-- A timer counts down and stays at 0 (R157; log 18) -/
def countDown (t : Byte) : Byte := if t = 0 then 0 else t - 1

/-- `Tick`: both timers, halted or not (R157) -/
def hostTick (s : State) : State := (s.writeDT (countDown s.DT)).writeST (countDown s.ST)

/-! ## Load -/

/-- `Load(bytes)` and what it returns (R184): with too many bytes no state changes at all -/
def loadProgram (bytes : List Byte) (s : State) : State × LoadResult :=
  if bytes.length > Config.maxProgram then (s, .capacityExceeded)
  else (s.writeMemory (s.memory.writeAll Config.loadBase bytes), .ok)

/-- The operation, permitted once after `Reset` and before the first `Step` (R184, R172; log 4, 5) -/
def hostLoad (bytes : List Byte) (s : State) : Result :=
  if s.loadPermitted then
    .next (((loadProgram bytes s).1.writeLoadPermitted false).writeLoadResult (some (loadProgram bytes s).2))
  else .fault .loadOutOfOrder

/-! ## Step -/

/-- The word at `pc`, two byte reads, big-endian, at any `pc` up to 0xFFE, odd ones too (R42, R44, R81) -/
def fetchWord (s : State) : Option Word :=
  if s.pc.toNat ≤ Config.lastFetch then some (wordOfBytes (s.byteAt s.pc.toNat) (s.byteAt (s.pc.toNat + 1))) else none

/-- Fetch, advance, decode, execute (R80) -/
def runInstruction (s : State) : Result :=
  match fetchWord s with
  | none => raise .addressOutOfRange s
  | some w =>
    match decodeWord w with
    | .ok i => exec i s.advancePc
    | .error _ => execUndefined s.advancePc

/-- `Step(keys, rnd)`: nothing at all while halted (R85); otherwise the inputs are sampled and one instruction runs (R80).
No `Load` may follow (R172). -/
def hostStep (keys : BitVec 16) (rnd : Byte) (s : State) : Result :=
  if s.halted then .next s
  else runInstruction ((s.sampleInputs keys rnd).writeLoadPermitted false)

/-! ## The host's next operation -/

/-- The operation the host performs now, and the state with that choice taken off what is still to come. When nothing is
scripted it is a `Step` with free inputs (log 1, 2). -/
def nextOp (s : State) : HostOp × State :=
  match s.script with
  | op :: rest => (op, s.writeScript rest)
  | [] => (.step (Config.freeKeys s.draws) (Config.freeRnd s.draws), s.writeDraws (s.draws + 1))

/-- One host operation, atomic and complete (R8, R192) -/
def perform (op : HostOp) (s : State) : Result :=
  match op with
  | .reset => .next (hostReset s)
  | .load bytes => hostLoad bytes s
  | .step keys rnd => hostStep keys rnd s
  | .tick => .next (hostTick s)

/-! ## Placing an instruction -/

/-- Where an instruction is placed: at `pc` if a word can be fetched there, else at 0x200 -/
def fetchAddress (s : State) : Word := if s.pc.toNat ≤ Config.lastFetch then s.pc else BitVec.ofNat 16 Config.loadBase

/-- The state whose next step fetches and runs the given bytes: they lie at the fetch address, the engine is not halted,
and the host's next operation is a `Step` with the inputs the ports hold (log 6) -/
def placeBytes (bytes : List Byte) (s : State) : State :=
  (((s.writePc (fetchAddress s)).writeMemory (s.memory.writeAll (fetchAddress s).toNat bytes)).writeFault .none).writeScript
    (.step s.keys s.rnd :: s.script)

end Sys2Proof.Machine
end

