-- ==== Sys2Proof/Machine/Step.lean ====
section
/-! DEFINITION. One step of the model: one operation of the host on the engine (spec/00_scope.md R8), and the state in
which the next step runs a given instruction. Both only call Machine/Engine.lean. -/

namespace Sys2Proof.Machine

def step (s : State) : Host.Outcome State Fault Refusal := perform (nextOp s).1 (nextOp s).2

/-- `s` with the instruction whose bits are `w`, numbered as spec/opcode_table.json numbers them, where the next step
fetches it. -/
def State.withFetchWord (s : State) (nbits w : Nat) : State := placeBytes (tableBytes nbits w) s

end Sys2Proof.Machine
end

