-- ==== Sys2Proof/Safety.lean ====
section
/-! DEFINITION. The terms claims are stated in: the invariant of the machine, which instruction raises which fault, which
parts of the state stay as they are, and what each instruction may write. They are written from the spec's rules and call
no meaning. -/

namespace Sys2Proof.Machine

/-! ## The invariant -/

/-- What every step keeps: memory in its canonical form, `pc` at most 0x10FE (spec/10_state.md R16: "pc may therefore hold
values above 0xFFF (up to 0x10FE)"), every stack entry a value `pc` held after a fetch, at most 0x1000 (R16, R18), and no
`Load` permitted once the engine has faulted, for it has stepped (R184). That `sp` is 0 to 16 (R17) is in its type. -/
def State.Inv (s : State) : Prop :=
  s.memory.wf = true ∧ s.pc.toNat ≤ 0x10FE ∧ (∀ k, (s.stackEntry k).toNat ≤ 0x1000) ∧
    (s.fault ≠ .none → s.loadPermitted = false)

/-! ## Faults (spec/60_exceptions.md R160 to R165) -/

/-- The fault an instruction raises in a state, by the list of R160, R161, R162 (b) to (e) and R165; `none` if it raises
none -/
def raisedBy (i : Instr) (s : State) : FaultCode :=
  match i with
  | .call _ => if s.sp.val = 16 then .stackOverflow else .none
  | .ret => if s.sp.val = 0 then .stackUnderflow else .none
  | .drw _ _ n => if 0 < n.val ∧ s.I.toNat + n.val - 1 > 0xFFF then .addressOutOfRange else .none
  | .ldBVx _ => if s.I.toNat + 2 > 0xFFF then .addressOutOfRange else .none
  | .ldMemVx x => if s.I.toNat + x.val > 0xFFF then .addressOutOfRange else .none
  | .ldVxMem x => if s.I.toNat + x.val > 0xFFF then .addressOutOfRange else .none
  | .skp x => if (s.reg x).toNat > 15 then .keyIndexOutOfRange else .none
  | .sknp x => if (s.reg x).toNat > 15 then .keyIndexOutOfRange else .none
  | .cls | .sys _ | .jp _ | .seVxKk _ _ | .sneVxKk _ _ | .seVxVy _ _ | .ldVxKk _ _ | .addVxKk _ _ | .ldVxVy _ _
  | .orVxVy _ _ | .andVxVy _ _ | .xorVxVy _ _ | .addVxVy _ _ | .subVxVy _ _ | .shrVx _ | .subnVxVy _ _ | .shlVx _
  | .sneVxVy _ _ | .ldI _ | .jpV0 _ | .rndVxKk _ _ | .ldVxDt _ | .ldVxK _ | .ldDtVx _ | .ldStVx _ | .addIVx _
  | .ldFVx _ => .none

/-! ## What stays as it is -/

/-- every general register -/
def SameRegs (s t : State) : Prop := ∀ r, t.reg r = s.reg r
/-- every byte of memory -/
def SameMemory (s t : State) : Prop := ∀ a, t.byteAt a = s.byteAt a
/-- every display cell -/
def SameDisplay (s t : State) : Prop := ∀ k, t.cell k = s.cell k
/-- the return stack and its pointer -/
def SameStack (s t : State) : Prop := t.sp = s.sp ∧ ∀ k, t.stackEntry k = s.stackEntry k
/-- both timers -/
def SameTimers (s t : State) : Prop := t.DT = s.DT ∧ t.ST = s.ST
/-- the model's own fields, which no instruction writes -/
def SameHost (s t : State) : Prop :=
  t.keys = s.keys ∧ t.rnd = s.rnd ∧ t.script = s.script ∧ t.draws = s.draws ∧
    t.loadPermitted = s.loadPermitted ∧ t.loadResult = s.loadResult

/-- Everything but the general registers -/
def SameButRegs (s t : State) : Prop :=
  t.I = s.I ∧ t.pc = s.pc ∧ SameStack s t ∧ SameMemory s t ∧ SameDisplay s t ∧ SameTimers s t ∧ t.fault = s.fault ∧
    SameHost s t
/-- Everything but `pc` -/
def SameButPc (s t : State) : Prop :=
  SameRegs s t ∧ t.I = s.I ∧ SameStack s t ∧ SameMemory s t ∧ SameDisplay s t ∧ SameTimers s t ∧ t.fault = s.fault ∧
    SameHost s t
/-- Everything but `pc`, the stack and its pointer -/
def SameButPcStack (s t : State) : Prop :=
  SameRegs s t ∧ t.I = s.I ∧ SameMemory s t ∧ SameDisplay s t ∧ SameTimers s t ∧ t.fault = s.fault ∧ SameHost s t
/-- Everything but `I` -/
def SameButI (s t : State) : Prop :=
  SameRegs s t ∧ t.pc = s.pc ∧ SameStack s t ∧ SameMemory s t ∧ SameDisplay s t ∧ SameTimers s t ∧ t.fault = s.fault ∧
    SameHost s t
/-- Everything but memory -/
def SameButMemory (s t : State) : Prop :=
  SameRegs s t ∧ t.I = s.I ∧ t.pc = s.pc ∧ SameStack s t ∧ SameDisplay s t ∧ SameTimers s t ∧ t.fault = s.fault ∧
    SameHost s t
/-- Everything but the display and the general registers -/
def SameButDisplayRegs (s t : State) : Prop :=
  t.I = s.I ∧ t.pc = s.pc ∧ SameStack s t ∧ SameMemory s t ∧ SameTimers s t ∧ t.fault = s.fault ∧ SameHost s t
/-- Everything but the timers -/
def SameButTimers (s t : State) : Prop :=
  SameRegs s t ∧ t.I = s.I ∧ t.pc = s.pc ∧ SameStack s t ∧ SameMemory s t ∧ SameDisplay s t ∧ t.fault = s.fault ∧
    SameHost s t
/-- Everything but the fault latch -/
def SameButFault (s t : State) : Prop :=
  SameRegs s t ∧ t.I = s.I ∧ t.pc = s.pc ∧ SameStack s t ∧ SameMemory s t ∧ SameDisplay s t ∧ SameTimers s t ∧ SameHost s t

/-- Every part of the engine's own state (R25), the model's own fields apart -/
def SameEngine (s t : State) : Prop :=
  SameRegs s t ∧ t.I = s.I ∧ t.pc = s.pc ∧ SameStack s t ∧ SameMemory s t ∧ SameDisplay s t ∧ SameTimers s t ∧
    t.fault = s.fault

/-- Every value `Reset` leaves (spec/70_reset_and_hazards.md R180), the font being the parameter `font` (R183) -/
def HoldsResetValues (t : State) : Prop :=
  (∀ r, t.reg r = 0) ∧ t.I = 0 ∧ t.pc = 0x200 ∧ t.sp = 0 ∧ (∀ k, t.stackEntry k = 0) ∧
    (∀ a, t.byteAt a = if 0x050 ≤ a ∧ a ≤ 0x09F then font.getD (a - 0x050) 0 else 0) ∧ (∀ k, t.cell k = false) ∧
    t.DT = 0 ∧ t.ST = 0 ∧ t.soundOn = false ∧ t.fault = .none

/-! ## Answers -/

/-- A function of the next state, if there is one -/
def mapNext (f : State → State) : Result → Result
  | .next t => .next (f t)
  | .fault r => .fault r
  | .refused r => .refused r

/-- The instruction takes the fault `c`: a next state with the latch set and everything else as before (R163). -/
def TakesFault (i : Instr) (s : State) (c : FaultCode) : Prop :=
  ∃ t, exec i s = .next t ∧ t.fault = c ∧ SameButFault s t

/-- The instruction completes with register `x` holding the number `v` and everything else as before. -/
def WritesOnlyReg (i : Instr) (s : State) (x : Reg) (v : Nat) : Prop :=
  ∃ t, exec i s = .next t ∧ (∀ r, (t.reg r).toNat = if r = x then v else (s.reg r).toNat) ∧ SameButRegs s t

/-- The instruction completes with `VF` holding the flag and register `x` the number `v`, which is what remains in `VF`
when x = 15 (spec/42_alu.md R110, R124), and everything else as before. -/
def WritesFlagAndReg (i : Instr) (s : State) (flag : Prop) [Decidable flag] (x : Reg) (v : Nat) : Prop :=
  ∃ t, exec i s = .next t ∧
    (∀ r, (t.reg r).toNat = if r = x then v else if r = VF then (if flag then 1 else 0) else (s.reg r).toNat) ∧
    SameButRegs s t

/-- The instruction completes with `pc` holding the number `p` and everything else as before. -/
def WritesOnlyPc (i : Instr) (s : State) (p : Nat) : Prop :=
  ∃ t, exec i s = .next t ∧ t.pc.toNat = p ∧ SameButPc s t

/-- The instruction completes with `I` holding the number `v` and everything else as before. -/
def WritesOnlyI (i : Instr) (s : State) (v : Nat) : Prop :=
  ∃ t, exec i s = .next t ∧ t.I.toNat = v ∧ SameButI s t

/-! ## Sprites (spec/44_display.md R142 to R146) -/

/-- Does the sprite of DRW Vx,Vy,n cover cell `k` with a set bit? The cell's column and row lie inside the 8 by n box at
the origin (V[x] mod 64, V[y] mod 32), and the bit of the row's byte is 1, bit 7 leftmost. -/
def spriteCovers (s : State) (x y : Reg) (n : Nat) (k : Nat) : Bool :=
  let x0 := (s.reg x).toNat % 64
  let y0 := (s.reg y).toNat % 32
  let cx := k % 64
  let cy := k / 64
  decide (k < 2048 ∧ x0 ≤ cx ∧ cx < x0 + 8 ∧ y0 ≤ cy ∧ cy < y0 + n) &&
    (s.byteAt (s.I.toNat + (cy - y0))).getLsbD (7 - (cx - x0))

end Sys2Proof.Machine

namespace Sys2Proof

/-! ## What an instruction may write (spec/10_state.md R11, R13, R15, R25) -/

/-- Does the instruction name register `r` as a destination? LD Vx,[I] names V0 to Vx. -/
def Instr.isDestination (i : Instr) (r : Reg) : Bool :=
  match i with
  | .ldVxKk x _ | .addVxKk x _ | .ldVxVy x _ | .orVxVy x _ | .andVxVy x _ | .xorVxVy x _ | .addVxVy x _ | .subVxVy x _
  | .shrVx x | .subnVxVy x _ | .shlVx x | .rndVxKk x _ | .ldVxDt x | .ldVxK x => r == x
  | .ldVxMem x => decide (r ≤ x)
  | .cls | .ret | .sys _ | .jp _ | .call _ | .seVxKk _ _ | .sneVxKk _ _ | .seVxVy _ _ | .sneVxVy _ _ | .ldI _ | .jpV0 _
  | .drw _ _ _ | .skp _ | .sknp _ | .ldDtVx _ | .ldStVx _ | .addIVx _ | .ldFVx _ | .ldBVx _ | .ldMemVx _ => false

/-- The six instructions that write `VF` as a side effect (R11) -/
def Instr.writesFlag : Instr → Bool
  | .addVxVy _ _ | .subVxVy _ _ | .shrVx _ | .subnVxVy _ _ | .shlVx _ | .drw _ _ _ => true
  | .cls | .ret | .sys _ | .jp _ | .call _ | .seVxKk _ _ | .sneVxKk _ _ | .seVxVy _ _ | .ldVxKk _ _ | .addVxKk _ _
  | .ldVxVy _ _ | .orVxVy _ _ | .andVxVy _ _ | .xorVxVy _ _ | .sneVxVy _ _ | .ldI _ | .jpV0 _ | .rndVxKk _ _ | .skp _
  | .sknp _ | .ldVxDt _ | .ldVxK _ | .ldDtVx _ | .ldStVx _ | .addIVx _ | .ldFVx _ | .ldBVx _ | .ldMemVx _
  | .ldVxMem _ => false

/-- The three instructions that write `I` (R13) -/
def Instr.writesI : Instr → Bool
  | .ldI _ | .addIVx _ | .ldFVx _ => true
  | .cls | .ret | .sys _ | .jp _ | .call _ | .seVxKk _ _ | .sneVxKk _ _ | .seVxVy _ _ | .ldVxKk _ _ | .addVxKk _ _
  | .ldVxVy _ _ | .orVxVy _ _ | .andVxVy _ _ | .xorVxVy _ _ | .addVxVy _ _ | .subVxVy _ _ | .shrVx _ | .subnVxVy _ _
  | .shlVx _ | .sneVxVy _ _ | .jpV0 _ | .rndVxKk _ _ | .drw _ _ _ | .skp _ | .sknp _ | .ldVxDt _ | .ldVxK _
  | .ldDtVx _ | .ldStVx _ | .ldBVx _ | .ldMemVx _ | .ldVxMem _ => false

/-- The two instructions that write memory (R25) -/
def Instr.writesMemory : Instr → Bool
  | .ldBVx _ | .ldMemVx _ => true
  | .cls | .ret | .sys _ | .jp _ | .call _ | .seVxKk _ _ | .sneVxKk _ _ | .seVxVy _ _ | .ldVxKk _ _ | .addVxKk _ _
  | .ldVxVy _ _ | .orVxVy _ _ | .andVxVy _ _ | .xorVxVy _ _ | .addVxVy _ _ | .subVxVy _ _ | .shrVx _ | .subnVxVy _ _
  | .shlVx _ | .sneVxVy _ _ | .ldI _ | .jpV0 _ | .rndVxKk _ _ | .drw _ _ _ | .skp _ | .sknp _ | .ldVxDt _ | .ldVxK _
  | .ldDtVx _ | .ldStVx _ | .addIVx _ | .ldFVx _ | .ldVxMem _ => false

/-- The two instructions that write the display (R20) -/
def Instr.writesDisplay : Instr → Bool
  | .cls | .drw _ _ _ => true
  | .ret | .sys _ | .jp _ | .call _ | .seVxKk _ _ | .sneVxKk _ _ | .seVxVy _ _ | .ldVxKk _ _ | .addVxKk _ _
  | .ldVxVy _ _ | .orVxVy _ _ | .andVxVy _ _ | .xorVxVy _ _ | .addVxVy _ _ | .subVxVy _ _ | .shrVx _ | .subnVxVy _ _
  | .shlVx _ | .sneVxVy _ _ | .ldI _ | .jpV0 _ | .rndVxKk _ _ | .skp _ | .sknp _ | .ldVxDt _ | .ldVxK _ | .ldDtVx _
  | .ldStVx _ | .addIVx _ | .ldFVx _ | .ldBVx _ | .ldMemVx _ | .ldVxMem _ => false

/-- The two instructions that write the stack or its pointer (R17) -/
def Instr.writesStack : Instr → Bool
  | .call _ | .ret => true
  | .cls | .sys _ | .jp _ | .seVxKk _ _ | .sneVxKk _ _ | .seVxVy _ _ | .ldVxKk _ _ | .addVxKk _ _ | .ldVxVy _ _
  | .orVxVy _ _ | .andVxVy _ _ | .xorVxVy _ _ | .addVxVy _ _ | .subVxVy _ _ | .shrVx _ | .subnVxVy _ _ | .shlVx _
  | .sneVxVy _ _ | .ldI _ | .jpV0 _ | .rndVxKk _ _ | .drw _ _ _ | .skp _ | .sknp _ | .ldVxDt _ | .ldVxK _
  | .ldDtVx _ | .ldStVx _ | .addIVx _ | .ldFVx _ | .ldBVx _ | .ldMemVx _ | .ldVxMem _ => false

/-- The instructions that move `pc` beyond the fetch's advance (R15, cases 2 to 4) -/
def Instr.movesPc : Instr → Bool
  | .jp _ | .call _ | .jpV0 _ | .ret | .seVxKk _ _ | .sneVxKk _ _ | .seVxVy _ _ | .sneVxVy _ _ | .skp _ | .sknp _
  | .ldVxK _ => true
  | .cls | .sys _ | .ldVxKk _ _ | .addVxKk _ _ | .ldVxVy _ _ | .orVxVy _ _ | .andVxVy _ _ | .xorVxVy _ _
  | .addVxVy _ _ | .subVxVy _ _ | .shrVx _ | .subnVxVy _ _ | .shlVx _ | .ldI _ | .rndVxKk _ _ | .drw _ _ _
  | .ldVxDt _ | .ldDtVx _ | .ldStVx _ | .addIVx _ | .ldFVx _ | .ldBVx _ | .ldMemVx _ | .ldVxMem _ => false

/-- The three instructions that read the key states (R19) -/
def Instr.readsKeys : Instr → Bool
  | .skp _ | .sknp _ | .ldVxK _ => true
  | .cls | .ret | .sys _ | .jp _ | .call _ | .seVxKk _ _ | .sneVxKk _ _ | .seVxVy _ _ | .ldVxKk _ _ | .addVxKk _ _
  | .ldVxVy _ _ | .orVxVy _ _ | .andVxVy _ _ | .xorVxVy _ _ | .addVxVy _ _ | .subVxVy _ _ | .shrVx _ | .subnVxVy _ _
  | .shlVx _ | .sneVxVy _ _ | .ldI _ | .jpV0 _ | .rndVxKk _ _ | .drw _ _ _ | .ldVxDt _ | .ldDtVx _ | .ldStVx _
  | .addIVx _ | .ldFVx _ | .ldBVx _ | .ldMemVx _ | .ldVxMem _ => false

/-- The one instruction that reads the random byte (R30) -/
def Instr.readsRnd : Instr → Bool
  | .rndVxKk _ _ => true
  | .cls | .ret | .sys _ | .jp _ | .call _ | .seVxKk _ _ | .sneVxKk _ _ | .seVxVy _ _ | .ldVxKk _ _ | .addVxKk _ _
  | .ldVxVy _ _ | .orVxVy _ _ | .andVxVy _ _ | .xorVxVy _ _ | .addVxVy _ _ | .subVxVy _ _ | .shrVx _ | .subnVxVy _ _
  | .shlVx _ | .sneVxVy _ _ | .ldI _ | .jpV0 _ | .drw _ _ _ | .skp _ | .sknp _ | .ldVxDt _ | .ldVxK _ | .ldDtVx _
  | .ldStVx _ | .addIVx _ | .ldFVx _ | .ldBVx _ | .ldMemVx _ | .ldVxMem _ => false

end Sys2Proof
end

