-- ==== Sys2Proof/Certificates/Slice0/Obligations.lean ====
section
/-! DEFINITION. The statements for the provers. Each docstring names the rule of spec/ it formalises; where a statement rests
on a decision the spec marks as its own (spec/92_eei_decisions.md) or on a convention of the model, it says so and names it. -/

open Sys2Proof Sys2Proof.Machine

/-! ## Encoding -/

/-- Decoding the word of a well-formed instruction gives the instruction back, every operand at every value, and so does
decoding its two bytes in front of any others (30_encoding.md R60, R61, R65, R72; the patterns are the spec's from general
knowledge, log 8, its family discriminators are decision D11, log 9). -/
def Obligations.EncodeThenDecodeGivesTheInstruction : Prop :=
  ∀ (i : Instr) (rest : List Byte), i.wellFormed = true →
    decodeWord (encode i) = .ok i ∧ decode (encodeBytes i ++ rest) = .ok (i, rest)

/-- Encoding what a word decodes to gives the word back with its ignored nibble cleared: bits 3..0 of 5xy? and 9xy?, bits
7..4 of 8x?6 and 8x?E (R67, R68, R72); and what is decoded is well formed (R66). Log 8, 9, 10. -/
def Obligations.DecodeThenEncodeClearsIgnoredNibbles : Prop :=
  ∀ (w : Word) (i : Instr), decodeWord w = .ok i →
    i.wellFormed = true ∧
    encode i =
      if w.toNat / 4096 = 5 ∨ w.toNat / 4096 = 9 then w &&& 0xFFF0
      else if w.toNat / 4096 = 8 ∧ (w.toNat % 16 = 6 ∨ w.toNat % 16 = 14) then w &&& 0xFF0F
      else w

/-- The two-level dispatch of R64 and the mask and match map of R65 give every word the same row, or none (R65, R66).
Log 8, 9. -/
def Obligations.DecoderAgreesWithTheOpcodeMap : Prop :=
  ∀ w : Word, (match decodeWord w with | .ok i => some i.mnemonic | .error _ => none) = tableMnemonic w

/-- The words the decoder gives to no instruction are exactly those R71 lists in families 8, E and F. The fourth group of
R71's list, the family-0 words other than 0x00E0 and 0x00EE, is exactly what the decoder gives to SYS: that these words are
an instruction of the table is decision D12 (R66, log 10). The numbers rest on the spec's patterns from general knowledge and
decision D11, log 8, 9. -/
def Obligations.UndefinedWordsAreExactlyTheList : Prop :=
  ∀ w : Word,
    ((∃ u, decodeWord w = .error u) ↔
      (w.toNat / 4096 = 8 ∧ w.toNat % 16 ∈ [8, 9, 10, 11, 12, 13, 15]) ∨
      (w.toNat / 4096 = 14 ∧ w.toNat % 256 ∉ [0x9E, 0xA1]) ∨
      (w.toNat / 4096 = 15 ∧ w.toNat % 256 ∉ [0x07, 0x0A, 0x15, 0x18, 0x1E, 0x29, 0x33, 0x55, 0x65])) ∧
    ((∃ nnn, decodeWord w = .ok (.sys nnn)) ↔ w.toNat < 0x1000 ∧ w.toNat ≠ 0x0E0 ∧ w.toNat ≠ 0x0EE)

/-- A word of each kind, written out from the encodings of R65, decodes to the instruction it stands for; log 8. -/
def Obligations.SampleWordsDecode : Prop :=
  decodeWord 0b0000000011100000 = .ok .cls ∧
  decodeWord 0b0010001000001010 = .ok (.call 0x20A) ∧
  decodeWord 0b0011101001000010 = .ok (.seVxKk 10 0x42) ∧
  decodeWord 0b1000000100100101 = .ok (.subVxVy 1 2) ∧
  decodeWord 0b1101000100100011 = .ok (.drw 1 2 3) ∧
  decodeWord 0b1110001010011110 = .ok (.skp 2) ∧
  decodeWord 0b1111001001010101 = .ok (.ldMemVx 2)

/-! ## The step -/

/-- `Step(keys, rnd)` on an engine that is not halted runs the instruction decoded from the two bytes at `pc`, with `pc`
advanced by 2 and the inputs sampled (40_fetch_dispatch.md R80, R81), whether the host's script names the inputs or they are
the free values of Config (log 1, 2); no `Load` is permitted afterwards (log 4). -/
def Obligations.StepRunsTheDecodedInstruction : Prop :=
  (∀ (s : State) (keys : BitVec 16) (rnd : Byte) (rest : List HostOp) (i : Instr),
    s.script = .step keys rnd :: rest → s.fault = .none → s.pc.toNat ≤ 0xFFE →
    decodeWord (wordOfBytes (s.byteAt s.pc.toNat) (s.byteAt (s.pc.toNat + 1))) = .ok i →
    step s = exec i { s with script := rest, keys := keys, rnd := rnd, loadPermitted := false, pc := s.pc + 2 }) ∧
  (∀ (s : State) (i : Instr),
    s.script = [] → s.fault = .none → s.pc.toNat ≤ 0xFFE →
    decodeWord (wordOfBytes (s.byteAt s.pc.toNat) (s.byteAt (s.pc.toNat + 1))) = .ok i →
    step s = exec i { s with draws := s.draws + 1, keys := Config.freeKeys s.draws, rnd := Config.freeRnd s.draws,
                             loadPermitted := false, pc := s.pc + 2 })

/-- The fetch reads the bytes at `pc` and `pc + 1` big-endian (20_memory.md R42), at every `pc` up to 0xFFE: that an odd `pc`
is fetched from as it stands is decision D13 (20_memory.md R44, log 21). -/
def Obligations.FetchReadsBigEndianAtPc : Prop :=
  ∀ s : State, s.pc.toNat ≤ 0xFFE →
    ∃ w, fetchWord s = some w ∧ w.toNat = (s.byteAt s.pc.toNat).toNat * 256 + (s.byteAt (s.pc.toNat + 1)).toNat

/-- A word that matches no defined sub-case only advances `pc` (40_fetch_dispatch.md R83). -/
def Obligations.UndefinedWordOnlyAdvancesPc : Prop :=
  ∀ (s : State) (keys : BitVec 16) (rnd : Byte) (rest : List HostOp) (u : Undefined),
    s.script = .step keys rnd :: rest → s.fault = .none → s.pc.toNat ≤ 0xFFE →
    decodeWord (wordOfBytes (s.byteAt s.pc.toNat) (s.byteAt (s.pc.toNat + 1))) = .error u →
    ∃ t, step s = .next t ∧ SameEngine { s with pc := s.pc + 2 } t

/-- A fetch with `pc` above 0xFFE latches AddressOutOfRange and changes nothing else, `pc` included: the spec's decision D6
(40_fetch_dispatch.md R81, log 13). -/
def Obligations.FetchOutOfRangeTakesTheAddressFault : Prop :=
  ∀ (s : State) (keys : BitVec 16) (rnd : Byte) (rest : List HostOp),
    s.script = .step keys rnd :: rest → s.fault = .none → 0xFFE < s.pc.toNat →
    ∃ t, step s = .next t ∧ SameEngine { s with fault := .addressOutOfRange } t

/-- While the engine is halted a `Step` changes nothing and samples no input: the spec's decision D2
(40_fetch_dispatch.md R85, log 11). -/
def Obligations.HaltedStepChangesNothing : Prop :=
  ∀ (s : State) (keys : BitVec 16) (rnd : Byte) (rest : List HostOp),
    s.script = .step keys rnd :: rest → s.fault ≠ .none →
    ∃ t, step s = .next t ∧ SameEngine s t ∧ t.keys = s.keys ∧ t.rnd = s.rnd

/-- Once latched, a fault stays until `Reset`: whatever else the host does, the latch and every part of the engine but the
timers stay as they are, and the timers move by `Tick` alone: the spec's decisions D2 and D19
(60_exceptions.md R164, log 11, 18). -/
def Obligations.FaultStaysUntilReset : Prop :=
  ∀ s t : State, s.Inv → s.fault ≠ .none → s.script.head? ≠ some .reset → step s = .next t →
    SameEngine { s with DT := t.DT, ST := t.ST } t ∧ (s.script.head? ≠ some .tick → SameTimers s t)

/-- Every instruction answers a next state in every state; and the one way a step of the model stops is a `Load` out of
order (92_eei_decisions.md D22, log 4). -/
def Obligations.OnlyALoadOutOfOrderStops : Prop :=
  (∀ (i : Instr) (s : State), ∃ t, exec i s = .next t) ∧
  (∀ s : State, (∃ t, step s = .next t) ∨
    (s.loadPermitted = false ∧ (∃ bytes rest, s.script = .load bytes :: rest) ∧ step s = .fault .loadOutOfOrder))

/-! ## Faults -/

/-- An instruction latches exactly the fault that the list of R160, R161, R162 (b) to (e) and R165 gives for the state, and
none outside it: the spec's decisions D3, D4, D5, D7 (log 12, 13, 14). -/
def Obligations.FaultsAreExactlyTheList : Prop :=
  ∀ (i : Instr) (s t : State), s.fault = .none → exec i s = .next t → t.fault = raisedBy i s

/-- An instruction that raises a fault writes the latch and nothing else: no register, byte, stack entry, cell or timer, and
`pc` stays at the instruction's address plus 2: the spec's decision D2 (60_exceptions.md R163, log 11). -/
def Obligations.FaultingInstructionWritesOnlyTheLatch : Prop :=
  ∀ (i : Instr) (s : State), raisedBy i s ≠ .none → TakesFault i s (raisedBy i s)

/-! ## Invariant and memory form -/

/-- Every step, whatever the host's operation, keeps the invariant (10_state.md R16, R18; the canonical form of memory is the
model's, log 25). -/
def Obligations.EveryStepKeepsTheInvariant : Prop :=
  ∀ s t : State, s.Inv → step s = .next t → t.Inv

/-- The state right after reset meets the invariant. -/
def Obligations.ResetMeetsTheInvariant : Prop := State.reset.Inv

/-- Two memories in the canonical form that read alike at every address are equal: equal memories are equal data (the
model's representation, log 25). -/
def Obligations.MemoriesThatReadAlikeAreEqual : Prop :=
  ∀ m m' : Memory, m.wf = true → m'.wf = true → (∀ a, m.read a = m'.read a) → m = m'

/-! ## The host's operations -/

/-- `Reset`, from any state, leaves every value of R180, and they are those of the model's reset state
(70_reset_and_hazards.md R180; `fault` = None is decision D28, the font bytes are log 7). The last clause, that the host's remaining operations stay
although `State.reset` has none, is the model's choice and no rule of the spec (log 28). -/
def Obligations.ResetLeavesTheResetValues : Prop :=
  HoldsResetValues State.reset ∧
  ∀ (s : State) (rest : List HostOp), s.script = .reset :: rest →
    ∃ t, step s = .next t ∧ HoldsResetValues t ∧ t.script = rest

/-- "For all ROM byte sequences of length ≤ 3584, load_program succeeds and memory[0x200:] equals the input bytes exactly;
for length > 3584 it fails with CapacityExceeded and leaves Machine State otherwise unmodified" (R196). Memory is in the
model's canonical form (log 25). -/
def Obligations.LoadPlacesTheProgramBytes : Prop :=
  ∀ (bytes : List Byte) (s : State), s.memory.wf = true →
    (bytes.length ≤ 3584 → ∃ t, loadProgram bytes s = (t, .ok) ∧
      (∀ (k : Nat) (h : k < bytes.length), t.byteAt (0x200 + k) = bytes[k]) ∧
      (∀ a, a < 0x200 ∨ 0x200 + bytes.length ≤ a → t.byteAt a = s.byteAt a) ∧ SameButMemory s t) ∧
    (3584 < bytes.length → loadProgram bytes s = (s, .capacityExceeded))

/-- The operation `Load` is performed once after `Reset` and before the first `Step`, and reports its result; out of order
the model stops: the spec's decision D22 (R184, log 4, 5). The list of operations it is taken off is the model's (log 1). -/
def Obligations.LoadIsPermittedOnce : Prop :=
  ∀ (s : State) (bytes : List Byte) (rest : List HostOp), s.script = .load bytes :: rest →
    (s.loadPermitted = true → ∃ t, step s = .next t ∧ SameEngine (loadProgram bytes s).1 t ∧
      t.loadResult = some (loadProgram bytes s).2 ∧ t.loadPermitted = false ∧ t.script = rest) ∧
    (s.loadPermitted = false → step s = .fault .loadOutOfOrder)

/-- `Tick` counts both timers down by one, 0 stays 0, halted or not, and changes nothing else (45_keypad_timers.md R157; the
floor at 0 is decision D10, ticking while halted D19, log 18); the clauses on the model's own fields are the model's (log 1 to
5). -/
def Obligations.TickCountsBothTimersDown : Prop :=
  ∀ (s : State) (rest : List HostOp), s.script = .tick :: rest →
    ∃ t, step s = .next t ∧ t.DT.toNat = s.DT.toNat - 1 ∧ t.ST.toNat = s.ST.toNat - 1 ∧
      SameEngine { s with DT := t.DT, ST := t.ST } t ∧ t.script = rest ∧ t.keys = s.keys ∧ t.rnd = s.rnd ∧
      t.draws = s.draws ∧ t.loadPermitted = s.loadPermitted ∧ t.loadResult = s.loadResult

/-- The sound is on for exactly as many ticks as ST holds: "it is on after the write and goes off at the v-th Tick" (R158,
derived there from R157 and R29; log 18). -/
def Obligations.SoundStaysOnForExactlyStTicks : Prop :=
  ∀ (s : State) (k : Nat), (hostTick^[k] s).soundOn = decide (k < s.ST.toNat)

/-! ## Register loads and the ALU -/

/-- LD Vx,kk, ADD Vx,kk, LD Vx,Vy, OR, AND and XOR complete in every state, write their destination and nothing else; `VF` is
written only as the destination (42_alu.md R112 to R117). -/
def Obligations.LoadsAndLogicWriteOneRegister : Prop :=
  ∀ (s : State) (x y : Reg) (kk : Byte),
    WritesOnlyReg (.ldVxKk x kk) s x kk.toNat ∧
    WritesOnlyReg (.addVxKk x kk) s x (((s.reg x).toNat + kk.toNat) % 256) ∧
    WritesOnlyReg (.ldVxVy x y) s x (s.reg y).toNat ∧
    WritesOnlyReg (.orVxVy x y) s x ((s.reg x).toNat ||| (s.reg y).toNat) ∧
    WritesOnlyReg (.andVxVy x y) s x ((s.reg x).toNat &&& (s.reg y).toNat) ∧
    WritesOnlyReg (.xorVxVy x y) s x ((s.reg x).toNat ^^^ (s.reg y).toNat)

/-- RND completes in every state and writes the step's random byte masked with kk (42_alu.md R123); that the byte is an input
of the step is decision D1, log 2. -/
def Obligations.RndMasksTheRandomByte : Prop :=
  ∀ (s : State) (x : Reg) (kk : Byte), WritesOnlyReg (.rndVxKk x kk) s x (s.rnd.toNat &&& kk.toNat)

/-- ADD Vx,Vy, SUB, SHR, SUBN and SHL complete in every state; their flag is in `VF` and their result in V[x], the result
staying when x = 15 (42_alu.md R118 to R122). Reading the operands first and writing `VF` before V[x] is decision D9
(R110, R124, log 16); the flag 0 at equality is conflict C8 (log 17). -/
def Obligations.FlaggedArithmeticWritesFlagAndResult : Prop :=
  ∀ (s : State) (x y : Reg),
    WritesFlagAndReg (.addVxVy x y) s ((s.reg x).toNat + (s.reg y).toNat > 255) x
      (((s.reg x).toNat + (s.reg y).toNat) % 256) ∧
    WritesFlagAndReg (.subVxVy x y) s ((s.reg x).toNat > (s.reg y).toNat) x
      ((256 + (s.reg x).toNat - (s.reg y).toNat) % 256) ∧
    WritesFlagAndReg (.shrVx x) s ((s.reg x).toNat % 2 = 1) x ((s.reg x).toNat / 2) ∧
    WritesFlagAndReg (.subnVxVy x y) s ((s.reg y).toNat > (s.reg x).toNat) x
      ((256 + (s.reg y).toNat - (s.reg x).toNat) % 256) ∧
    WritesFlagAndReg (.shlVx x) s (128 ≤ (s.reg x).toNat) x (2 * (s.reg x).toNat % 256)

/-- No instruction writes a register it does not name as a destination, but for `VF`, which only ADD Vx,Vy, SUB, SHR, SUBN,
SHL and DRW write as a side effect; where one of these raises no fault and does not name `VF` as its destination, what it
leaves there is 0 or 1 (10_state.md R11, R12). Log 16. -/
def Obligations.OnlySixInstructionsWriteTheFlag : Prop :=
  ∀ (i : Instr) (s t : State), exec i s = .next t →
    (∀ r, i.isDestination r = false → ¬ (r = VF ∧ i.writesFlag = true) → t.reg r = s.reg r) ∧
    (i.writesFlag = true → raisedBy i s = .none → i.isDestination VF = false → t.reg VF = 0 ∨ t.reg VF = 1)

/-! ## Control flow -/

/-- SE and SNE, with a byte and with a register, complete in every state and move `pc` by 2 more exactly when their condition
holds, changing nothing else (41_control_flow.md R94, R95; the register forms likewise). -/
def Obligations.SkipsMovePcWhenTheConditionHolds : Prop :=
  ∀ (s : State) (x y : Reg) (kk : Byte),
    WritesOnlyPc (.seVxKk x kk) s (if s.reg x = kk then (s.pc.toNat + 2) % 65536 else s.pc.toNat) ∧
    WritesOnlyPc (.sneVxKk x kk) s (if s.reg x = kk then s.pc.toNat else (s.pc.toNat + 2) % 65536) ∧
    WritesOnlyPc (.seVxVy x y) s (if s.reg x = s.reg y then (s.pc.toNat + 2) % 65536 else s.pc.toNat) ∧
    WritesOnlyPc (.sneVxVy x y) s (if s.reg x = s.reg y then s.pc.toNat else (s.pc.toNat + 2) % 65536)

/-- JP and JP V0 complete in every state and set `pc` to nnn and to the unreduced sum nnn + V0, changing nothing else; a sum
that cannot be fetched from is caught by the next fetch (41_control_flow.md R92, R98). -/
def Obligations.JumpsSetPc : Prop :=
  ∀ (s : State) (nnn : Addr12),
    WritesOnlyPc (.jp nnn) s nnn.toNat ∧
    WritesOnlyPc (.jpV0 nnn) s (nnn.toNat + (s.reg 0).toNat) ∧
    ∀ t, exec (.jpV0 nnn) s = .next t → 0xFFE < nnn.toNat + (s.reg 0).toNat → fetchWord t = none

/-- SYS addr completes in every state and changes nothing at all: the spec's decision D12 (40_fetch_dispatch.md R84,
log 10). -/
def Obligations.SysChangesNothing : Prop :=
  ∀ (s : State) (nnn : Addr12), exec (.sys nnn) s = .next s

/-- CALL with fewer than 16 entries in use completes: it stores `pc`, already past the instruction, in the next free entry,
counts it, and jumps to nnn (41_control_flow.md R93, 10_state.md R18). That an entry is 16 bits is decision D23. -/
def Obligations.CallPushesTheReturnAddress : Prop :=
  ∀ (s : State) (nnn : Addr12), s.sp.val < 16 →
    ∃ t, exec (.call nnn) s = .next t ∧ t.sp.val = s.sp.val + 1 ∧
      (∀ k : Fin 16, t.stackEntry k = if k.val = s.sp.val then s.pc else s.stackEntry k) ∧
      t.pc.toNat = nnn.toNat ∧ SameButPcStack s t

/-- RET with an entry in use completes: it takes the top entry into `pc` and leaves every entry as it was
(41_control_flow.md R91, 10_state.md R18). -/
def Obligations.RetPopsTheReturnAddress : Prop :=
  ∀ s : State, 0 < s.sp.val →
    ∃ t, exec .ret s = .next t ∧ t.sp.val + 1 = s.sp.val ∧ (∀ k, t.stackEntry k = s.stackEntry k) ∧
      (∀ k : Fin 16, k.val + 1 = s.sp.val → t.pc = s.stackEntry k) ∧ SameButPcStack s t

/-- "CALL immediately followed by RET restores pc to the instruction after CALL, and sp returns to its pre-CALL value"
(41_control_flow.md R93), whatever the RET's own address; the entries below are as they were. -/
def Obligations.CallThenRetComesBack : Prop :=
  ∀ (s : State) (nnn : Addr12), s.sp.val < 16 →
    ∃ t u, exec (.call nnn) s = .next t ∧ exec .ret t.advancePc = .next u ∧ u.pc = s.pc ∧ u.sp = s.sp ∧
      (∀ k : Fin 16, k.val < s.sp.val → u.stackEntry k = s.stackEntry k) ∧ SameButPcStack s u

/-- A jump to itself leaves every part of the engine as it was (40_fetch_dispatch.md R86, derived there from R80; log 8 for
the pattern 1nnn). -/
def Obligations.SelfJumpChangesNothing : Prop :=
  ∀ (s : State) (keys : BitVec 16) (rnd : Byte) (rest : List HostOp),
    s.script = .step keys rnd :: rest → s.fault = .none → s.pc.toNat ≤ 0xFFE →
    (s.byteAt s.pc.toNat).toNat * 256 + (s.byteAt (s.pc.toNat + 1)).toNat = 0x1000 + s.pc.toNat →
    ∃ t, step s = .next t ∧ SameEngine s t

/-! ## Index register and memory -/

/-- LD I,addr and LD F,Vx complete in every state and set `I` to nnn and to 0x050 + 5 * V[x], with no mask, changing nothing
else (43_index_memory.md R131, R133). -/
def Obligations.IndexLoadsSetI : Prop :=
  ∀ (s : State) (nnn : Addr12) (x : Reg),
    WritesOnlyI (.ldI nnn) s nnn.toNat ∧ WritesOnlyI (.ldFVx x) s (0x050 + 5 * (s.reg x).toNat)

/-- ADD I,Vx completes in every state; the sum wraps modulo 2^16, decision D21, and no flag is written
(43_index_memory.md R132, log 21). -/
def Obligations.AddToIndexWrapsAt16Bits : Prop :=
  ∀ (s : State) (x : Reg), WritesOnlyI (.addIVx x) s ((s.I.toNat + (s.reg x).toNat) % 65536)

/-- LD B,Vx and LD [I],Vx with every address in range complete: they store the three digits, and V0 to Vx, from the address
`indexAddr` gives, and change no other byte and nothing else, `I` included (43_index_memory.md R134, R135; the digit order is
decision D17, `I` unchanged D25, log 20). Memory is in the model's canonical form (log 25). -/
def Obligations.StoresWriteExactlyTheirBytes : Prop :=
  ∀ (s : State) (x : Reg), s.memory.wf = true →
    (indexAddr s + 2 ≤ 0xFFF → ∃ t, exec (.ldBVx x) s = .next t ∧
      (t.byteAt (indexAddr s)).toNat = (s.reg x).toNat / 100 ∧
      (t.byteAt (indexAddr s + 1)).toNat = (s.reg x).toNat / 10 % 10 ∧
      (t.byteAt (indexAddr s + 2)).toNat = (s.reg x).toNat % 10 ∧
      (∀ a, a < indexAddr s ∨ indexAddr s + 2 < a → t.byteAt a = s.byteAt a) ∧ SameButMemory s t) ∧
    (indexAddr s + x.val ≤ 0xFFF → ∃ t, exec (.ldMemVx x) s = .next t ∧
      (∀ k : Reg, k ≤ x → t.byteAt (indexAddr s + k.val) = s.reg k) ∧
      (∀ a, a < indexAddr s ∨ indexAddr s + x.val < a → t.byteAt a = s.byteAt a) ∧ SameButMemory s t)

/-- LD Vx,[I] with every address in range completes: V0 to Vx take the bytes from `I` on, every other register and everything
else is unchanged (43_index_memory.md R136; `I` unchanged is decision D25, log 20). -/
def Obligations.BlockLoadFillsTheRegisters : Prop :=
  ∀ (s : State) (x : Reg), indexAddr s + x.val ≤ 0xFFF →
    ∃ t, exec (.ldVxMem x) s = .next t ∧
      (∀ r : Reg, t.reg r = if r ≤ x then s.byteAt (indexAddr s + r.val) else s.reg r) ∧ SameButRegs s t

/-- What LD [I],Vx stores LD Vx,[I] loads back, whatever the registers hold in between (43_index_memory.md R135, R136, log
20, 25). -/
def Obligations.StoreThenLoadGivesTheRegistersBack : Prop :=
  ∀ (s : State) (x : Reg) (between : Vector Byte 16), s.memory.wf = true → indexAddr s + x.val ≤ 0xFFF →
    ∃ t u, exec (.ldMemVx x) s = .next t ∧ exec (.ldVxMem x) (t.writeVs between) = .next u ∧
      ∀ r : Reg, u.reg r = if r ≤ x then s.reg r else between[r]

/-- Self-modifying code works at once: a word stored at the address of the very next instruction is the word fetched next
(20_memory.md R52, derived there from R40, R42, R49; log 25). -/
def Obligations.StoredWordIsFetchedNext : Prop :=
  ∀ (s : State) (x : Reg), s.memory.wf = true → s.I = s.pc → 1 ≤ x.val → s.I.toNat + x.val ≤ 0xFFF →
    ∃ t w, exec (.ldMemVx x) s = .next t ∧ fetchWord t = some w ∧
      w.toNat = (s.reg 0).toNat * 256 + (s.reg 1).toNat

/-! ## Display -/

/-- CLS completes in every state, turns every cell off and changes nothing else, `VF` included (44_display.md R141). -/
def Obligations.ClsClearsTheDisplay : Prop :=
  ∀ s : State, ∃ t, exec .cls s = .next t ∧ (∀ k, t.cell k = false) ∧ SameRegs s t ∧ SameButDisplayRegs s t

/-- DRW with every row's address in range completes: each cell is flipped exactly when the sprite covers it with a set bit on
the grid, and `VF` is 1 exactly when a flipped cell was on before; no other register, no byte and nothing else changes
(44_display.md R142, R144). Dropping pixels off the grid is decision D8 (log 15), bit 7 leftmost and the cell numbering D16
(log 19), the position latched before `VF` is cleared D9 (log 16). -/
def Obligations.DrwFlipsExactlyTheCoveredCells : Prop :=
  ∀ (s : State) (x y : Reg) (n : Fin 16), n.val = 0 ∨ indexAddr s + n.val - 1 ≤ 0xFFF →
    ∃ t, exec (.drw x y n) s = .next t ∧
      (∀ k, t.cell k = (s.cell k ^^ spriteCovers s x y n.val k)) ∧
      (t.reg VF = 0 ∨ t.reg VF = 1) ∧
      (t.reg VF = 1 ↔ ∃ k, spriteCovers s x y n.val k = true ∧ s.cell k = true) ∧
      (∀ r, r ≠ VF → t.reg r = s.reg r) ∧ SameButDisplayRegs s t

/-- Drawing the same sprite twice at the same place restores the display, and the second draw leaves `VF` = 1 exactly when
a cell the sprite covers was off before the first. The spec's derived corner case R146 (g) says "1 if the sprite has any
visible set bit", which R142 gives only where not every such cell was on already; the statement follows R142 (44_display.md,
log 30; 15, 19). The position registers are not `VF`, which the first draw overwrites. -/
def Obligations.DrawingTwiceRestoresTheDisplay : Prop :=
  ∀ (s : State) (x y : Reg) (n : Fin 16), x ≠ VF → y ≠ VF → n.val = 0 ∨ indexAddr s + n.val - 1 ≤ 0xFFF →
    ∃ t u, exec (.drw x y n) s = .next t ∧ exec (.drw x y n) t.advancePc = .next u ∧ SameDisplay s u ∧
      (u.reg VF = 0 ∨ u.reg VF = 1) ∧
      (u.reg VF = 1 ↔ ∃ k, spriteCovers s x y n.val k = true ∧ s.cell k = false)

/-! ## Keypad and timers -/

/-- SKP and SKNP with V[x] at most 15 complete: `pc` moves by 2 more exactly when the key that the register's value names is
down, or is up, and nothing else changes (45_keypad_timers.md R150, R151). Sampling the keys once a step is decision D20
(log 29). -/
def Obligations.KeySkipsTestTheNamedKey : Prop :=
  ∀ (s : State) (x : Reg), (s.reg x).toNat ≤ 15 →
    WritesOnlyPc (.skp x) s
      (if s.keyDown (s.reg x).toNat = true then (s.pc.toNat + 2) % 65536 else s.pc.toNat) ∧
    WritesOnlyPc (.sknp x) s
      (if s.keyDown (s.reg x).toNat = true then s.pc.toNat else (s.pc.toNat + 2) % 65536)

/-- LD Vx,K with a key down completes with the least such key in V[x] and changes nothing else; with no key down it moves
`pc` back by 2 and changes nothing else (45_keypad_timers.md R152; no wait for release is decision D27, log 20). -/
def Obligations.WaitForKeyTakesTheLeastKey : Prop :=
  ∀ (s : State) (x : Reg),
    (∀ k, k < 16 → s.keyDown k = true → (∀ j, j < k → s.keyDown j = false) → WritesOnlyReg (.ldVxK x) s x k) ∧
    ((∀ k, k < 16 → s.keyDown k = false) → WritesOnlyPc (.ldVxK x) s ((s.pc.toNat + 65534) % 65536))

/-- LD Vx,DT, LD DT,Vx and LD ST,Vx complete in every state, copy the one register and change nothing else; the sound is on
at once exactly when the value written is not 0 (45_keypad_timers.md R153, R154, R155). -/
def Obligations.TimerTransfersCopyOneRegister : Prop :=
  ∀ (s : State) (x : Reg),
    WritesOnlyReg (.ldVxDt x) s x s.DT.toNat ∧
    (∃ t, exec (.ldDtVx x) s = .next t ∧ t.DT = s.reg x ∧ t.ST = s.ST ∧ SameButTimers s t) ∧
    (∃ t, exec (.ldStVx x) s = .next t ∧ t.ST = s.reg x ∧ t.DT = s.DT ∧ SameButTimers s t ∧
      (t.soundOn = true ↔ s.reg x ≠ 0))

/-! ## Whole-machine rules -/

/-- Each part of the state changes only by the instructions the spec's lists give it: memory by LD B and LD [I],Vx, the
display by CLS and DRW, `I` by LD I, ADD I and LD F, the stack by CALL and RET, DT and ST by their loads, `pc` by the jumps,
skips and LD Vx,K (10_state.md R13, R15, R25); no instruction writes the model's own fields. -/
def Obligations.EachPartHasOnlyItsWriters : Prop :=
  ∀ (i : Instr) (s t : State), exec i s = .next t →
    (i.writesMemory = false → SameMemory s t) ∧
    (i.writesDisplay = false → SameDisplay s t) ∧
    (i.writesI = false → t.I = s.I) ∧
    (i.writesStack = false → SameStack s t) ∧
    ((∀ x, i ≠ .ldDtVx x) → t.DT = s.DT) ∧
    ((∀ x, i ≠ .ldStVx x) → t.ST = s.ST) ∧
    (i.movesPc = false → t.pc = s.pc) ∧
    SameHost s t

/-- The key states reach no instruction but SKP, SKNP and LD Vx,K, and the random byte none but RND: any other instruction
does the same whatever the host presents (10_state.md R19, R30, decisions D1 and D20; log 2, 3, 29). -/
def Obligations.InputsReachOnlyTheirReaders : Prop :=
  ∀ (i : Instr) (s : State) (keys : BitVec 16) (rnd : Byte),
    (i.readsKeys = false →
      exec i (s.sampleInputs keys s.rnd) = mapNext (fun t => t.sampleInputs keys t.rnd) (exec i s)) ∧
    (i.readsRnd = false →
      exec i (s.sampleInputs s.keys rnd) = mapNext (fun t => t.sampleInputs t.keys rnd) (exec i s))

/-- A word placed by `withFetchWord` is what the very next step fetches, decodes and runs, with the registers, `I`, the
stack, the display, the timers and the inputs the state holds (the model's convention, log 6). -/
def Obligations.PlacedWordRunsNext : Prop :=
  ∀ (s : State) (w : Word) (i : Instr), s.memory.wf = true → decodeWord w = .ok i →
    ∃ t, step (s.withFetchWord 16 w.toNat) = exec i t ∧ t.pc.toNat = (fetchAddress s).toNat + 2 ∧
      (s.pc.toNat ≤ 0xFFE → t.pc.toNat = s.pc.toNat + 2) ∧ SameRegs s t ∧ t.I = s.I ∧ SameStack s t ∧
      SameDisplay s t ∧ SameTimers s t ∧ t.fault = .none ∧ t.keys = s.keys ∧ t.rnd = s.rnd ∧ t.script = s.script ∧
      (t.byteAt (fetchAddress s).toNat).toNat * 256 + (t.byteAt ((fetchAddress s).toNat + 1)).toNat = w.toNat ∧
      ∀ a, a < (fetchAddress s).toNat ∨ (fetchAddress s).toNat + 1 < a → t.byteAt a = s.byteAt a
end

