-- ==== Sys2Proof/Laws/Decode.lean ====
section
/-! SUPPORT. The fields of an encoded word are the ones it was built from (Decode.lean), and the two bytes of a word give
the word back. -/

namespace Sys2Proof

section NNN
variable (op : BitVec 4) (nnn : Addr12)
@[simp] theorem opField_formatNNN : opField (formatNNN op nnn) = op := BitVec.extractLsb'_append_eq_left
@[simp] theorem nnnField_formatNNN : nnnField (formatNNN op nnn) = nnn := BitVec.extractLsb'_append_eq_right
end NNN

section XKK
variable (op : BitVec 4) (x : Reg) (kk : Byte)
@[simp] theorem opField_formatXKK : opField (formatXKK op x kk) = op :=
  BitVec.extractLsb'_append_eq_left (w := 4) (w' := 12)
@[simp] theorem xField_formatXKK : xField (formatXKK op x kk) = x := by
  have h : (formatXKK op x kk).extractLsb' 8 4 = BitVec.ofFin (w := 4) x := by
    ext i hi
    simp only [formatXKK, BitVec.getElem_extractLsb', BitVec.getLsbD_append]
    simp [hi, show 8 + i < 12 by omega, show ¬ 8 + i < 8 by omega]
  simp [xField, h]
@[simp] theorem kkField_formatXKK : kkField (formatXKK op x kk) = kk := by
  ext i hi
  simp only [kkField, formatXKK, BitVec.getElem_extractLsb', BitVec.getLsbD_append]
  simp [hi, show i < 12 by omega]
end XKK

section XYN
variable (op : BitVec 4) (x y : Reg) (n : Fin 16)
@[simp] theorem opField_formatXYN : opField (formatXYN op x y n) = op :=
  BitVec.extractLsb'_append_eq_left (w := 4) (w' := 12)
@[simp] theorem xField_formatXYN : xField (formatXYN op x y n) = x := by
  have h : (formatXYN op x y n).extractLsb' 8 4 = BitVec.ofFin (w := 4) x := by
    ext i hi
    simp only [formatXYN, BitVec.getElem_extractLsb', BitVec.getLsbD_append]
    simp [hi, show 8 + i < 12 by omega, show ¬ 8 + i < 8 by omega]
  simp [xField, h]
@[simp] theorem yField_formatXYN : yField (formatXYN op x y n) = y := by
  have h : (formatXYN op x y n).extractLsb' 4 4 = BitVec.ofFin (w := 4) y := by
    ext i hi
    simp only [formatXYN, BitVec.getElem_extractLsb', BitVec.getLsbD_append]
    simp [show 4 + i < 12 by omega, show 4 + i < 8 by omega, show ¬ 4 + i < 4 by omega,
      BitVec.getLsbD_eq_getElem hi]
  simp [yField, h]
@[simp] theorem nField_formatXYN : nField (formatXYN op x y n) = n := by
  have h : (formatXYN op x y n).extractLsb' 0 4 = BitVec.ofFin (w := 4) n := by
    ext i hi
    simp only [formatXYN, BitVec.getElem_extractLsb', BitVec.getLsbD_append]
    simp [hi, show i < 12 by omega, show i < 8 by omega]
  simp [nField, h]
end XYN

/-- The two bytes of a word give the word back (R42). -/
@[simp] theorem wordOfBytes_high_low (w : Word) : wordOfBytes (highByte w) (lowByte w) = w := by
  apply BitVec.eq_of_getLsbD_eq
  intro i hi
  rw [wordOfBytes, highByte, lowByte, BitVec.getLsbD_append]
  split
  · simp [*]
  · simp [show i - 8 < 8 by omega, show 8 + (i - 8) = i by omega]

/-- `w = MemRead(pc, 1) * 256 + MemRead(pc + 1, 1)` (R42) -/
@[simp] theorem wordOfBytes_toNat (hi lo : Byte) : (wordOfBytes hi lo).toNat = hi.toNat * 256 + lo.toNat := by
  rw [wordOfBytes, BitVec.toNat_append, ← Nat.shiftLeft_add_eq_or_of_lt lo.isLt, Nat.shiftLeft_eq]

/-! ## What a mask of the opcode map leaves of a word -/

theorem formatNNN_and (o o' : BitVec 4) (a a' : Addr12) :
    formatNNN o a &&& formatNNN o' a' = formatNNN (o &&& o') (a &&& a') := BitVec.and_append

theorem and_ones4 (a : BitVec 4) : a &&& 0xF#4 = a := BitVec.and_allOnes
theorem and_ones8 (a : BitVec 8) : a &&& 0xFF#8 = a := BitVec.and_allOnes

theorem formatNNN_and_F000 (op : BitVec 4) (nnn : Addr12) : formatNNN op nnn &&& 0xF000#16 = formatNNN op 0 := by
  have h := formatNNN_and op 0xF#4 nnn 0#12
  rwa [and_ones4, BitVec.and_zero] at h

theorem formatXKK_and_F000 (op : BitVec 4) (x : Reg) (kk : Byte) : formatXKK op x kk &&& 0xF000#16 = formatNNN op 0 :=
  formatNNN_and_F000 op _

theorem formatXYN_and_F000 (op : BitVec 4) (x y : Reg) (n : Fin 16) : formatXYN op x y n &&& 0xF000#16 = formatNNN op 0 :=
  formatNNN_and_F000 op _

theorem formatXKK_and_F0FF (op : BitVec 4) (x : Reg) (kk : Byte) :
    formatXKK op x kk &&& 0xF0FF#16 = formatXKK op 0 kk := by
  have h := formatNNN_and op 0xF#4 (BitVec.ofFin (w := 4) x ++ kk) (0#4 ++ 0xFF#8)
  have hlow : (BitVec.ofFin (w := 4) x ++ kk) &&& (0#4 ++ 0xFF#8) = 0#4 ++ kk := by
    rw [BitVec.and_append, BitVec.and_zero, and_ones8]
  rw [hlow, and_ones4] at h
  exact h

theorem formatXYN_and_F00F (op : BitVec 4) (x y : Reg) (n : Fin 16) :
    formatXYN op x y n &&& 0xF00F#16 = formatXYN op 0 0 n := by
  have h := formatNNN_and op 0xF#4
    (BitVec.ofFin (w := 4) x ++ (BitVec.ofFin (w := 4) y ++ BitVec.ofFin (w := 4) n)) (0#4 ++ (0#4 ++ 0xF#4))
  have hlow : (BitVec.ofFin (w := 4) x ++ (BitVec.ofFin (w := 4) y ++ BitVec.ofFin (w := 4) n)) &&&
      (0#4 ++ (0#4 ++ 0xF#4)) = 0#4 ++ (0#4 ++ BitVec.ofFin (w := 4) n) := by
    rw [BitVec.and_append, BitVec.and_append, BitVec.and_zero, BitVec.and_zero, and_ones4]
  rw [hlow, and_ones4] at h
  exact h

end Sys2Proof
end

