-- ==== Sys2Proof/Laws/Memory.lean ====
section
/-! SUPPORT. The laws of memory (Machine/Memory.lean): every operation keeps the canonical form, a read after a write gives
the byte written and every other byte as before, and the block operations are those byte by byte. -/

namespace Sys2Proof.Machine

theorem Memory.wf_cons {a : Nat} {v : Byte} {m : Memory} :
    Memory.wf ((a, v) :: m) = true ↔ a < 4096 ∧ v ≠ resetByte a ∧ (∀ c ∈ m, a < c.1) ∧ Memory.wf m = true := by
  simp [Memory.wf, and_assoc]

/-- An address below every listed one reads as its reset contents. -/
theorem Memory.read_of_lt {m : Memory} {a : Nat} (h : ∀ c ∈ m, a < c.1) : m.read a = resetByte a := by
  induction m with
  | nil => rfl
  | cons c m ih =>
    obtain ⟨b, u⟩ := c
    have hb : a < b := h (b, u) (by simp)
    rw [Memory.read, if_neg (by omega)]
    exact ih fun c hc => h c (by simp [hc])

/-- Every cell after a write is the written one or was there before. -/
theorem Memory.mem_write {m : Memory} {a : Nat} {v : Byte} {c : Host.Cell} (h : c ∈ m.write a v) :
    c = (a, v) ∨ c ∈ m := by
  induction m with
  | nil =>
    rw [Memory.write] at h
    split at h <;> simp_all
  | cons d m ih =>
    obtain ⟨b, u⟩ := d
    rw [Memory.write] at h
    split at h
    · split at h <;> simp_all
    · split at h
      · split at h
        · exact .inr (by simp [h])
        · rcases List.mem_cons.mp h with h | h
          · subst_vars; exact .inl rfl
          · exact .inr (by simp [h])
      · rcases List.mem_cons.mp h with h | h
        · simp [h]
        · rcases ih h with h | h <;> simp [h]

/-- A write inside the address space keeps the canonical form. -/
theorem Memory.wf_write {m : Memory} (hm : m.wf = true) {a : Nat} (ha : a < 4096) (v : Byte) :
    (m.write a v).wf = true := by
  induction m with
  | nil =>
    rw [Memory.write]
    split
    · rfl
    · rw [Memory.wf_cons]; exact ⟨ha, ‹_›, by simp, rfl⟩
  | cons d m ih =>
    obtain ⟨b, u⟩ := d
    obtain ⟨hb, hu, hlt, hwf⟩ := Memory.wf_cons.mp hm
    rw [Memory.write]
    split
    · rename_i hab
      split
      · exact hm
      · rw [Memory.wf_cons]
        refine ⟨ha, ‹_›, ?_, hm⟩
        intro c hc
        rcases List.mem_cons.mp hc with rfl | hc
        · exact hab
        · have := hlt c hc; omega
    · split
      · subst_vars
        split
        · exact hwf
        · exact Memory.wf_cons.mpr ⟨ha, ‹_›, hlt, hwf⟩
      · refine Memory.wf_cons.mpr ⟨hb, hu, ?_, ih hwf⟩
        intro c hc
        rcases Memory.mem_write hc with rfl | hc
        · simp only; omega
        · exact hlt c hc

/-- A read after a write: the byte written there, every other byte as before. -/
theorem Memory.read_write {m : Memory} (hm : m.wf = true) (a : Nat) (v : Byte) (b : Nat) :
    (m.write a v).read b = if b = a then v else m.read b := by
  induction m with
  | nil =>
    rw [Memory.write]
    split
    · split <;> simp_all [Memory.read]
    · simp only [Memory.read, eq_comm]
  | cons d m ih =>
    obtain ⟨c, u⟩ := d
    obtain ⟨-, -, hlt, hwf⟩ := Memory.wf_cons.mp hm
    have hread : ∀ a, a ≤ c → Memory.read m a = resetByte a := fun a h =>
      Memory.read_of_lt fun e he => by have := hlt e he; omega
    rw [Memory.write]
    split
    · split
      · by_cases hb : b = a
        · subst hb
          rw [if_pos rfl, Memory.read, if_neg (by omega), hread b (by omega)]; exact Eq.symm ‹_›
        · rw [if_neg hb]
      · simp only [Memory.read, eq_comm]
    · split
      · subst_vars
        split
        · by_cases hb : b = c
          · subst hb; rw [if_pos rfl, hread b (by omega)]; exact Eq.symm ‹_›
          · rw [if_neg hb, Memory.read, if_neg (by omega)]
        · by_cases hb : b = c
          · simp [hb, Memory.read]
          · rw [if_neg hb, Memory.read, Memory.read, if_neg (by omega), if_neg (by omega)]
      · rw [Memory.read, Memory.read, ih hwf]
        split
        · rw [if_neg (by omega)]
        · rfl

@[simp] theorem Memory.length_readAll (m : Memory) (base n : Nat) : (m.readAll base n).length = n := by
  induction n generalizing base with
  | zero => rfl
  | succ n ih => simp [Memory.readAll, ih]

/-- Byte `k` of a block read is the byte at `base + k`. -/
theorem Memory.getElem_readAll (m : Memory) (base n k : Nat) (h : k < (m.readAll base n).length) :
    (m.readAll base n)[k] = m.read (base + k) := by
  induction n generalizing base k with
  | zero => simp at h
  | succ n ih =>
    cases k with
    | zero => rfl
    | succ k =>
      simp only [Memory.readAll, List.getElem_cons_succ]
      rw [ih]; congr 1; omega

/-- A block write inside the address space keeps the canonical form. -/
theorem Memory.wf_writeAll {m : Memory} (hm : m.wf = true) {base : Nat} {bytes : List Byte}
    (h : base + bytes.length ≤ 4096) : (m.writeAll base bytes).wf = true := by
  induction bytes generalizing m base with
  | nil => exact hm
  | cons b bs ih =>
    simp only [List.length_cons] at h
    exact ih (Memory.wf_write hm (by omega) b) (by omega)

/-- A read after a block write: byte `k` of the block at `base + k`, every other byte as before. -/
theorem Memory.read_writeAll {m : Memory} (hm : m.wf = true) {base : Nat} {bytes : List Byte}
    (h : base + bytes.length ≤ 4096) (a : Nat) :
    (m.writeAll base bytes).read a =
      if base ≤ a ∧ a < base + bytes.length then bytes.getD (a - base) 0 else m.read a := by
  induction bytes generalizing m base with
  | nil => rw [Memory.writeAll, if_neg (by simp only [List.length_nil]; omega)]
  | cons b bs ih =>
    simp only [List.length_cons] at h ⊢
    rw [Memory.writeAll, ih (Memory.wf_write hm (by omega) b) (by omega), Memory.read_write hm]
    by_cases h1 : a = base
    · subst h1; simp
    · by_cases h2 : base + 1 ≤ a ∧ a < base + 1 + bs.length
      · rw [if_pos h2, if_pos (by omega)]
        obtain ⟨d, rfl⟩ : ∃ d, a = base + 1 + d := ⟨a - (base + 1), by omega⟩
        rw [show base + 1 + d - (base + 1) = d by omega, show base + 1 + d - base = d + 1 by omega]
        simp
      · rw [if_neg h2, if_neg h1, if_neg (by omega)]

/-! ## The block accesses of a state -/

theorem blockInRange_iff (base n : Nat) : blockInRange base n = true ↔ n = 0 ∨ base + n ≤ 4096 := by
  cases n <;> (simp [blockInRange]; try omega)

theorem not_blockInRange_iff (base n : Nat) : ¬ blockInRange base n = true ↔ 0 < n ∧ 4096 < base + n := by
  rw [blockInRange_iff]; omega

/-- A block read answers exactly when it touches no byte or its highest address is in range. -/
theorem State.readBlock_eq_some {s : State} {base n : Nat} {bytes : List Byte} :
    s.readBlock base n = some bytes ↔ (n = 0 ∨ base + n ≤ 4096) ∧ bytes = s.memory.readAll base n := by
  rw [State.readBlock, ← blockInRange_iff]
  split <;> simp [*, eq_comm]

theorem State.readBlock_eq_none {s : State} {base n : Nat} :
    s.readBlock base n = none ↔ 0 < n ∧ 4096 < base + n := by
  rw [State.readBlock, ← not_blockInRange_iff]
  split <;> simp [*]

/-- A block write answers exactly when its highest address is in range; it then changes memory alone. -/
theorem State.writeBlock_eq_some {s t : State} {base : Nat} {bytes : List Byte} :
    s.writeBlock base bytes = some t ↔
      (bytes.length = 0 ∨ base + bytes.length ≤ 4096) ∧ t = s.writeMemory (s.memory.writeAll base bytes) := by
  rw [State.writeBlock, ← blockInRange_iff]
  split <;> simp [*, eq_comm]

theorem State.writeBlock_eq_none {s : State} {base : Nat} {bytes : List Byte} :
    s.writeBlock base bytes = none ↔ 0 < bytes.length ∧ 4096 < base + bytes.length := by
  rw [State.writeBlock, ← not_blockInRange_iff]
  split <;> simp [*]

end Sys2Proof.Machine
end

