-- ==== Sys2Proof/Laws/State.lean ====
section
/-! SUPPORT. One lemma per field per named write of the state (Machine/Ops.lean), so that no later proof unfolds a record
update; and the same for the reads of one register, stack entry, byte, cell and key. -/

namespace Sys2Proof.Machine

variable (s : State)

/-! writeV -/
@[simp] theorem State.writeV_V (r : Reg) (b : Byte) : (s.writeV r b).V = s.V.set r b := rfl
@[simp] theorem State.writeV_I (r : Reg) (b : Byte) : (s.writeV r b).I = s.I := rfl
@[simp] theorem State.writeV_pc (r : Reg) (b : Byte) : (s.writeV r b).pc = s.pc := rfl
@[simp] theorem State.writeV_sp (r : Reg) (b : Byte) : (s.writeV r b).sp = s.sp := rfl
@[simp] theorem State.writeV_stack (r : Reg) (b : Byte) : (s.writeV r b).stack = s.stack := rfl
@[simp] theorem State.writeV_memory (r : Reg) (b : Byte) : (s.writeV r b).memory = s.memory := rfl
@[simp] theorem State.writeV_display (r : Reg) (b : Byte) : (s.writeV r b).display = s.display := rfl
@[simp] theorem State.writeV_DT (r : Reg) (b : Byte) : (s.writeV r b).DT = s.DT := rfl
@[simp] theorem State.writeV_ST (r : Reg) (b : Byte) : (s.writeV r b).ST = s.ST := rfl
@[simp] theorem State.writeV_fault (r : Reg) (b : Byte) : (s.writeV r b).fault = s.fault := rfl
@[simp] theorem State.writeV_keys (r : Reg) (b : Byte) : (s.writeV r b).keys = s.keys := rfl
@[simp] theorem State.writeV_rnd (r : Reg) (b : Byte) : (s.writeV r b).rnd = s.rnd := rfl
@[simp] theorem State.writeV_script (r : Reg) (b : Byte) : (s.writeV r b).script = s.script := rfl
@[simp] theorem State.writeV_draws (r : Reg) (b : Byte) : (s.writeV r b).draws = s.draws := rfl
@[simp] theorem State.writeV_loadPermitted (r : Reg) (b : Byte) : (s.writeV r b).loadPermitted = s.loadPermitted := rfl
@[simp] theorem State.writeV_loadResult (r : Reg) (b : Byte) : (s.writeV r b).loadResult = s.loadResult := rfl

/-! writeVs -/
@[simp] theorem State.writeVs_V (vs : Vector Byte 16) : (s.writeVs vs).V = vs := rfl
@[simp] theorem State.writeVs_I (vs : Vector Byte 16) : (s.writeVs vs).I = s.I := rfl
@[simp] theorem State.writeVs_pc (vs : Vector Byte 16) : (s.writeVs vs).pc = s.pc := rfl
@[simp] theorem State.writeVs_sp (vs : Vector Byte 16) : (s.writeVs vs).sp = s.sp := rfl
@[simp] theorem State.writeVs_stack (vs : Vector Byte 16) : (s.writeVs vs).stack = s.stack := rfl
@[simp] theorem State.writeVs_memory (vs : Vector Byte 16) : (s.writeVs vs).memory = s.memory := rfl
@[simp] theorem State.writeVs_display (vs : Vector Byte 16) : (s.writeVs vs).display = s.display := rfl
@[simp] theorem State.writeVs_DT (vs : Vector Byte 16) : (s.writeVs vs).DT = s.DT := rfl
@[simp] theorem State.writeVs_ST (vs : Vector Byte 16) : (s.writeVs vs).ST = s.ST := rfl
@[simp] theorem State.writeVs_fault (vs : Vector Byte 16) : (s.writeVs vs).fault = s.fault := rfl
@[simp] theorem State.writeVs_keys (vs : Vector Byte 16) : (s.writeVs vs).keys = s.keys := rfl
@[simp] theorem State.writeVs_rnd (vs : Vector Byte 16) : (s.writeVs vs).rnd = s.rnd := rfl
@[simp] theorem State.writeVs_script (vs : Vector Byte 16) : (s.writeVs vs).script = s.script := rfl
@[simp] theorem State.writeVs_draws (vs : Vector Byte 16) : (s.writeVs vs).draws = s.draws := rfl
@[simp] theorem State.writeVs_loadPermitted (vs : Vector Byte 16) : (s.writeVs vs).loadPermitted = s.loadPermitted := rfl
@[simp] theorem State.writeVs_loadResult (vs : Vector Byte 16) : (s.writeVs vs).loadResult = s.loadResult := rfl

/-! writeI -/
@[simp] theorem State.writeI_V (w : Word) : (s.writeI w).V = s.V := rfl
@[simp] theorem State.writeI_I (w : Word) : (s.writeI w).I = w := rfl
@[simp] theorem State.writeI_pc (w : Word) : (s.writeI w).pc = s.pc := rfl
@[simp] theorem State.writeI_sp (w : Word) : (s.writeI w).sp = s.sp := rfl
@[simp] theorem State.writeI_stack (w : Word) : (s.writeI w).stack = s.stack := rfl
@[simp] theorem State.writeI_memory (w : Word) : (s.writeI w).memory = s.memory := rfl
@[simp] theorem State.writeI_display (w : Word) : (s.writeI w).display = s.display := rfl
@[simp] theorem State.writeI_DT (w : Word) : (s.writeI w).DT = s.DT := rfl
@[simp] theorem State.writeI_ST (w : Word) : (s.writeI w).ST = s.ST := rfl
@[simp] theorem State.writeI_fault (w : Word) : (s.writeI w).fault = s.fault := rfl
@[simp] theorem State.writeI_keys (w : Word) : (s.writeI w).keys = s.keys := rfl
@[simp] theorem State.writeI_rnd (w : Word) : (s.writeI w).rnd = s.rnd := rfl
@[simp] theorem State.writeI_script (w : Word) : (s.writeI w).script = s.script := rfl
@[simp] theorem State.writeI_draws (w : Word) : (s.writeI w).draws = s.draws := rfl
@[simp] theorem State.writeI_loadPermitted (w : Word) : (s.writeI w).loadPermitted = s.loadPermitted := rfl
@[simp] theorem State.writeI_loadResult (w : Word) : (s.writeI w).loadResult = s.loadResult := rfl

/-! writePc -/
@[simp] theorem State.writePc_V (w : Word) : (s.writePc w).V = s.V := rfl
@[simp] theorem State.writePc_I (w : Word) : (s.writePc w).I = s.I := rfl
@[simp] theorem State.writePc_pc (w : Word) : (s.writePc w).pc = w := rfl
@[simp] theorem State.writePc_sp (w : Word) : (s.writePc w).sp = s.sp := rfl
@[simp] theorem State.writePc_stack (w : Word) : (s.writePc w).stack = s.stack := rfl
@[simp] theorem State.writePc_memory (w : Word) : (s.writePc w).memory = s.memory := rfl
@[simp] theorem State.writePc_display (w : Word) : (s.writePc w).display = s.display := rfl
@[simp] theorem State.writePc_DT (w : Word) : (s.writePc w).DT = s.DT := rfl
@[simp] theorem State.writePc_ST (w : Word) : (s.writePc w).ST = s.ST := rfl
@[simp] theorem State.writePc_fault (w : Word) : (s.writePc w).fault = s.fault := rfl
@[simp] theorem State.writePc_keys (w : Word) : (s.writePc w).keys = s.keys := rfl
@[simp] theorem State.writePc_rnd (w : Word) : (s.writePc w).rnd = s.rnd := rfl
@[simp] theorem State.writePc_script (w : Word) : (s.writePc w).script = s.script := rfl
@[simp] theorem State.writePc_draws (w : Word) : (s.writePc w).draws = s.draws := rfl
@[simp] theorem State.writePc_loadPermitted (w : Word) : (s.writePc w).loadPermitted = s.loadPermitted := rfl
@[simp] theorem State.writePc_loadResult (w : Word) : (s.writePc w).loadResult = s.loadResult := rfl

/-! writeSp -/
@[simp] theorem State.writeSp_V (n : Fin 17) : (s.writeSp n).V = s.V := rfl
@[simp] theorem State.writeSp_I (n : Fin 17) : (s.writeSp n).I = s.I := rfl
@[simp] theorem State.writeSp_pc (n : Fin 17) : (s.writeSp n).pc = s.pc := rfl
@[simp] theorem State.writeSp_sp (n : Fin 17) : (s.writeSp n).sp = n := rfl
@[simp] theorem State.writeSp_stack (n : Fin 17) : (s.writeSp n).stack = s.stack := rfl
@[simp] theorem State.writeSp_memory (n : Fin 17) : (s.writeSp n).memory = s.memory := rfl
@[simp] theorem State.writeSp_display (n : Fin 17) : (s.writeSp n).display = s.display := rfl
@[simp] theorem State.writeSp_DT (n : Fin 17) : (s.writeSp n).DT = s.DT := rfl
@[simp] theorem State.writeSp_ST (n : Fin 17) : (s.writeSp n).ST = s.ST := rfl
@[simp] theorem State.writeSp_fault (n : Fin 17) : (s.writeSp n).fault = s.fault := rfl
@[simp] theorem State.writeSp_keys (n : Fin 17) : (s.writeSp n).keys = s.keys := rfl
@[simp] theorem State.writeSp_rnd (n : Fin 17) : (s.writeSp n).rnd = s.rnd := rfl
@[simp] theorem State.writeSp_script (n : Fin 17) : (s.writeSp n).script = s.script := rfl
@[simp] theorem State.writeSp_draws (n : Fin 17) : (s.writeSp n).draws = s.draws := rfl
@[simp] theorem State.writeSp_loadPermitted (n : Fin 17) : (s.writeSp n).loadPermitted = s.loadPermitted := rfl
@[simp] theorem State.writeSp_loadResult (n : Fin 17) : (s.writeSp n).loadResult = s.loadResult := rfl

/-! writeStack -/
@[simp] theorem State.writeStack_V (k : Fin 16) (w : Word) : (s.writeStack k w).V = s.V := rfl
@[simp] theorem State.writeStack_I (k : Fin 16) (w : Word) : (s.writeStack k w).I = s.I := rfl
@[simp] theorem State.writeStack_pc (k : Fin 16) (w : Word) : (s.writeStack k w).pc = s.pc := rfl
@[simp] theorem State.writeStack_sp (k : Fin 16) (w : Word) : (s.writeStack k w).sp = s.sp := rfl
@[simp] theorem State.writeStack_stack (k : Fin 16) (w : Word) : (s.writeStack k w).stack = s.stack.set k w := rfl
@[simp] theorem State.writeStack_memory (k : Fin 16) (w : Word) : (s.writeStack k w).memory = s.memory := rfl
@[simp] theorem State.writeStack_display (k : Fin 16) (w : Word) : (s.writeStack k w).display = s.display := rfl
@[simp] theorem State.writeStack_DT (k : Fin 16) (w : Word) : (s.writeStack k w).DT = s.DT := rfl
@[simp] theorem State.writeStack_ST (k : Fin 16) (w : Word) : (s.writeStack k w).ST = s.ST := rfl
@[simp] theorem State.writeStack_fault (k : Fin 16) (w : Word) : (s.writeStack k w).fault = s.fault := rfl
@[simp] theorem State.writeStack_keys (k : Fin 16) (w : Word) : (s.writeStack k w).keys = s.keys := rfl
@[simp] theorem State.writeStack_rnd (k : Fin 16) (w : Word) : (s.writeStack k w).rnd = s.rnd := rfl
@[simp] theorem State.writeStack_script (k : Fin 16) (w : Word) : (s.writeStack k w).script = s.script := rfl
@[simp] theorem State.writeStack_draws (k : Fin 16) (w : Word) : (s.writeStack k w).draws = s.draws := rfl
@[simp] theorem State.writeStack_loadPermitted (k : Fin 16) (w : Word) : (s.writeStack k w).loadPermitted = s.loadPermitted := rfl
@[simp] theorem State.writeStack_loadResult (k : Fin 16) (w : Word) : (s.writeStack k w).loadResult = s.loadResult := rfl

/-! writeMemory -/
@[simp] theorem State.writeMemory_V (m : Memory) : (s.writeMemory m).V = s.V := rfl
@[simp] theorem State.writeMemory_I (m : Memory) : (s.writeMemory m).I = s.I := rfl
@[simp] theorem State.writeMemory_pc (m : Memory) : (s.writeMemory m).pc = s.pc := rfl
@[simp] theorem State.writeMemory_sp (m : Memory) : (s.writeMemory m).sp = s.sp := rfl
@[simp] theorem State.writeMemory_stack (m : Memory) : (s.writeMemory m).stack = s.stack := rfl
@[simp] theorem State.writeMemory_memory (m : Memory) : (s.writeMemory m).memory = m := rfl
@[simp] theorem State.writeMemory_display (m : Memory) : (s.writeMemory m).display = s.display := rfl
@[simp] theorem State.writeMemory_DT (m : Memory) : (s.writeMemory m).DT = s.DT := rfl
@[simp] theorem State.writeMemory_ST (m : Memory) : (s.writeMemory m).ST = s.ST := rfl
@[simp] theorem State.writeMemory_fault (m : Memory) : (s.writeMemory m).fault = s.fault := rfl
@[simp] theorem State.writeMemory_keys (m : Memory) : (s.writeMemory m).keys = s.keys := rfl
@[simp] theorem State.writeMemory_rnd (m : Memory) : (s.writeMemory m).rnd = s.rnd := rfl
@[simp] theorem State.writeMemory_script (m : Memory) : (s.writeMemory m).script = s.script := rfl
@[simp] theorem State.writeMemory_draws (m : Memory) : (s.writeMemory m).draws = s.draws := rfl
@[simp] theorem State.writeMemory_loadPermitted (m : Memory) : (s.writeMemory m).loadPermitted = s.loadPermitted := rfl
@[simp] theorem State.writeMemory_loadResult (m : Memory) : (s.writeMemory m).loadResult = s.loadResult := rfl

/-! writeDisplay -/
@[simp] theorem State.writeDisplay_V (d : DisplayRows) : (s.writeDisplay d).V = s.V := rfl
@[simp] theorem State.writeDisplay_I (d : DisplayRows) : (s.writeDisplay d).I = s.I := rfl
@[simp] theorem State.writeDisplay_pc (d : DisplayRows) : (s.writeDisplay d).pc = s.pc := rfl
@[simp] theorem State.writeDisplay_sp (d : DisplayRows) : (s.writeDisplay d).sp = s.sp := rfl
@[simp] theorem State.writeDisplay_stack (d : DisplayRows) : (s.writeDisplay d).stack = s.stack := rfl
@[simp] theorem State.writeDisplay_memory (d : DisplayRows) : (s.writeDisplay d).memory = s.memory := rfl
@[simp] theorem State.writeDisplay_display (d : DisplayRows) : (s.writeDisplay d).display = d := rfl
@[simp] theorem State.writeDisplay_DT (d : DisplayRows) : (s.writeDisplay d).DT = s.DT := rfl
@[simp] theorem State.writeDisplay_ST (d : DisplayRows) : (s.writeDisplay d).ST = s.ST := rfl
@[simp] theorem State.writeDisplay_fault (d : DisplayRows) : (s.writeDisplay d).fault = s.fault := rfl
@[simp] theorem State.writeDisplay_keys (d : DisplayRows) : (s.writeDisplay d).keys = s.keys := rfl
@[simp] theorem State.writeDisplay_rnd (d : DisplayRows) : (s.writeDisplay d).rnd = s.rnd := rfl
@[simp] theorem State.writeDisplay_script (d : DisplayRows) : (s.writeDisplay d).script = s.script := rfl
@[simp] theorem State.writeDisplay_draws (d : DisplayRows) : (s.writeDisplay d).draws = s.draws := rfl
@[simp] theorem State.writeDisplay_loadPermitted (d : DisplayRows) : (s.writeDisplay d).loadPermitted = s.loadPermitted := rfl
@[simp] theorem State.writeDisplay_loadResult (d : DisplayRows) : (s.writeDisplay d).loadResult = s.loadResult := rfl

/-! writeDT -/
@[simp] theorem State.writeDT_V (b : Byte) : (s.writeDT b).V = s.V := rfl
@[simp] theorem State.writeDT_I (b : Byte) : (s.writeDT b).I = s.I := rfl
@[simp] theorem State.writeDT_pc (b : Byte) : (s.writeDT b).pc = s.pc := rfl
@[simp] theorem State.writeDT_sp (b : Byte) : (s.writeDT b).sp = s.sp := rfl
@[simp] theorem State.writeDT_stack (b : Byte) : (s.writeDT b).stack = s.stack := rfl
@[simp] theorem State.writeDT_memory (b : Byte) : (s.writeDT b).memory = s.memory := rfl
@[simp] theorem State.writeDT_display (b : Byte) : (s.writeDT b).display = s.display := rfl
@[simp] theorem State.writeDT_DT (b : Byte) : (s.writeDT b).DT = b := rfl
@[simp] theorem State.writeDT_ST (b : Byte) : (s.writeDT b).ST = s.ST := rfl
@[simp] theorem State.writeDT_fault (b : Byte) : (s.writeDT b).fault = s.fault := rfl
@[simp] theorem State.writeDT_keys (b : Byte) : (s.writeDT b).keys = s.keys := rfl
@[simp] theorem State.writeDT_rnd (b : Byte) : (s.writeDT b).rnd = s.rnd := rfl
@[simp] theorem State.writeDT_script (b : Byte) : (s.writeDT b).script = s.script := rfl
@[simp] theorem State.writeDT_draws (b : Byte) : (s.writeDT b).draws = s.draws := rfl
@[simp] theorem State.writeDT_loadPermitted (b : Byte) : (s.writeDT b).loadPermitted = s.loadPermitted := rfl
@[simp] theorem State.writeDT_loadResult (b : Byte) : (s.writeDT b).loadResult = s.loadResult := rfl

/-! writeST -/
@[simp] theorem State.writeST_V (b : Byte) : (s.writeST b).V = s.V := rfl
@[simp] theorem State.writeST_I (b : Byte) : (s.writeST b).I = s.I := rfl
@[simp] theorem State.writeST_pc (b : Byte) : (s.writeST b).pc = s.pc := rfl
@[simp] theorem State.writeST_sp (b : Byte) : (s.writeST b).sp = s.sp := rfl
@[simp] theorem State.writeST_stack (b : Byte) : (s.writeST b).stack = s.stack := rfl
@[simp] theorem State.writeST_memory (b : Byte) : (s.writeST b).memory = s.memory := rfl
@[simp] theorem State.writeST_display (b : Byte) : (s.writeST b).display = s.display := rfl
@[simp] theorem State.writeST_DT (b : Byte) : (s.writeST b).DT = s.DT := rfl
@[simp] theorem State.writeST_ST (b : Byte) : (s.writeST b).ST = b := rfl
@[simp] theorem State.writeST_fault (b : Byte) : (s.writeST b).fault = s.fault := rfl
@[simp] theorem State.writeST_keys (b : Byte) : (s.writeST b).keys = s.keys := rfl
@[simp] theorem State.writeST_rnd (b : Byte) : (s.writeST b).rnd = s.rnd := rfl
@[simp] theorem State.writeST_script (b : Byte) : (s.writeST b).script = s.script := rfl
@[simp] theorem State.writeST_draws (b : Byte) : (s.writeST b).draws = s.draws := rfl
@[simp] theorem State.writeST_loadPermitted (b : Byte) : (s.writeST b).loadPermitted = s.loadPermitted := rfl
@[simp] theorem State.writeST_loadResult (b : Byte) : (s.writeST b).loadResult = s.loadResult := rfl

/-! writeFault -/
@[simp] theorem State.writeFault_V (c : FaultCode) : (s.writeFault c).V = s.V := rfl
@[simp] theorem State.writeFault_I (c : FaultCode) : (s.writeFault c).I = s.I := rfl
@[simp] theorem State.writeFault_pc (c : FaultCode) : (s.writeFault c).pc = s.pc := rfl
@[simp] theorem State.writeFault_sp (c : FaultCode) : (s.writeFault c).sp = s.sp := rfl
@[simp] theorem State.writeFault_stack (c : FaultCode) : (s.writeFault c).stack = s.stack := rfl
@[simp] theorem State.writeFault_memory (c : FaultCode) : (s.writeFault c).memory = s.memory := rfl
@[simp] theorem State.writeFault_display (c : FaultCode) : (s.writeFault c).display = s.display := rfl
@[simp] theorem State.writeFault_DT (c : FaultCode) : (s.writeFault c).DT = s.DT := rfl
@[simp] theorem State.writeFault_ST (c : FaultCode) : (s.writeFault c).ST = s.ST := rfl
@[simp] theorem State.writeFault_fault (c : FaultCode) : (s.writeFault c).fault = c := rfl
@[simp] theorem State.writeFault_keys (c : FaultCode) : (s.writeFault c).keys = s.keys := rfl
@[simp] theorem State.writeFault_rnd (c : FaultCode) : (s.writeFault c).rnd = s.rnd := rfl
@[simp] theorem State.writeFault_script (c : FaultCode) : (s.writeFault c).script = s.script := rfl
@[simp] theorem State.writeFault_draws (c : FaultCode) : (s.writeFault c).draws = s.draws := rfl
@[simp] theorem State.writeFault_loadPermitted (c : FaultCode) : (s.writeFault c).loadPermitted = s.loadPermitted := rfl
@[simp] theorem State.writeFault_loadResult (c : FaultCode) : (s.writeFault c).loadResult = s.loadResult := rfl

/-! sampleInputs -/
@[simp] theorem State.sampleInputs_V (k : BitVec 16) (b : Byte) : (s.sampleInputs k b).V = s.V := rfl
@[simp] theorem State.sampleInputs_I (k : BitVec 16) (b : Byte) : (s.sampleInputs k b).I = s.I := rfl
@[simp] theorem State.sampleInputs_pc (k : BitVec 16) (b : Byte) : (s.sampleInputs k b).pc = s.pc := rfl
@[simp] theorem State.sampleInputs_sp (k : BitVec 16) (b : Byte) : (s.sampleInputs k b).sp = s.sp := rfl
@[simp] theorem State.sampleInputs_stack (k : BitVec 16) (b : Byte) : (s.sampleInputs k b).stack = s.stack := rfl
@[simp] theorem State.sampleInputs_memory (k : BitVec 16) (b : Byte) : (s.sampleInputs k b).memory = s.memory := rfl
@[simp] theorem State.sampleInputs_display (k : BitVec 16) (b : Byte) : (s.sampleInputs k b).display = s.display := rfl
@[simp] theorem State.sampleInputs_DT (k : BitVec 16) (b : Byte) : (s.sampleInputs k b).DT = s.DT := rfl
@[simp] theorem State.sampleInputs_ST (k : BitVec 16) (b : Byte) : (s.sampleInputs k b).ST = s.ST := rfl
@[simp] theorem State.sampleInputs_fault (k : BitVec 16) (b : Byte) : (s.sampleInputs k b).fault = s.fault := rfl
@[simp] theorem State.sampleInputs_keys (k : BitVec 16) (b : Byte) : (s.sampleInputs k b).keys = k := rfl
@[simp] theorem State.sampleInputs_rnd (k : BitVec 16) (b : Byte) : (s.sampleInputs k b).rnd = b := rfl
@[simp] theorem State.sampleInputs_script (k : BitVec 16) (b : Byte) : (s.sampleInputs k b).script = s.script := rfl
@[simp] theorem State.sampleInputs_draws (k : BitVec 16) (b : Byte) : (s.sampleInputs k b).draws = s.draws := rfl
@[simp] theorem State.sampleInputs_loadPermitted (k : BitVec 16) (b : Byte) : (s.sampleInputs k b).loadPermitted = s.loadPermitted := rfl
@[simp] theorem State.sampleInputs_loadResult (k : BitVec 16) (b : Byte) : (s.sampleInputs k b).loadResult = s.loadResult := rfl

/-! writeScript -/
@[simp] theorem State.writeScript_V (ops : List HostOp) : (s.writeScript ops).V = s.V := rfl
@[simp] theorem State.writeScript_I (ops : List HostOp) : (s.writeScript ops).I = s.I := rfl
@[simp] theorem State.writeScript_pc (ops : List HostOp) : (s.writeScript ops).pc = s.pc := rfl
@[simp] theorem State.writeScript_sp (ops : List HostOp) : (s.writeScript ops).sp = s.sp := rfl
@[simp] theorem State.writeScript_stack (ops : List HostOp) : (s.writeScript ops).stack = s.stack := rfl
@[simp] theorem State.writeScript_memory (ops : List HostOp) : (s.writeScript ops).memory = s.memory := rfl
@[simp] theorem State.writeScript_display (ops : List HostOp) : (s.writeScript ops).display = s.display := rfl
@[simp] theorem State.writeScript_DT (ops : List HostOp) : (s.writeScript ops).DT = s.DT := rfl
@[simp] theorem State.writeScript_ST (ops : List HostOp) : (s.writeScript ops).ST = s.ST := rfl
@[simp] theorem State.writeScript_fault (ops : List HostOp) : (s.writeScript ops).fault = s.fault := rfl
@[simp] theorem State.writeScript_keys (ops : List HostOp) : (s.writeScript ops).keys = s.keys := rfl
@[simp] theorem State.writeScript_rnd (ops : List HostOp) : (s.writeScript ops).rnd = s.rnd := rfl
@[simp] theorem State.writeScript_script (ops : List HostOp) : (s.writeScript ops).script = ops := rfl
@[simp] theorem State.writeScript_draws (ops : List HostOp) : (s.writeScript ops).draws = s.draws := rfl
@[simp] theorem State.writeScript_loadPermitted (ops : List HostOp) : (s.writeScript ops).loadPermitted = s.loadPermitted := rfl
@[simp] theorem State.writeScript_loadResult (ops : List HostOp) : (s.writeScript ops).loadResult = s.loadResult := rfl

/-! writeDraws -/
@[simp] theorem State.writeDraws_V (n : Nat) : (s.writeDraws n).V = s.V := rfl
@[simp] theorem State.writeDraws_I (n : Nat) : (s.writeDraws n).I = s.I := rfl
@[simp] theorem State.writeDraws_pc (n : Nat) : (s.writeDraws n).pc = s.pc := rfl
@[simp] theorem State.writeDraws_sp (n : Nat) : (s.writeDraws n).sp = s.sp := rfl
@[simp] theorem State.writeDraws_stack (n : Nat) : (s.writeDraws n).stack = s.stack := rfl
@[simp] theorem State.writeDraws_memory (n : Nat) : (s.writeDraws n).memory = s.memory := rfl
@[simp] theorem State.writeDraws_display (n : Nat) : (s.writeDraws n).display = s.display := rfl
@[simp] theorem State.writeDraws_DT (n : Nat) : (s.writeDraws n).DT = s.DT := rfl
@[simp] theorem State.writeDraws_ST (n : Nat) : (s.writeDraws n).ST = s.ST := rfl
@[simp] theorem State.writeDraws_fault (n : Nat) : (s.writeDraws n).fault = s.fault := rfl
@[simp] theorem State.writeDraws_keys (n : Nat) : (s.writeDraws n).keys = s.keys := rfl
@[simp] theorem State.writeDraws_rnd (n : Nat) : (s.writeDraws n).rnd = s.rnd := rfl
@[simp] theorem State.writeDraws_script (n : Nat) : (s.writeDraws n).script = s.script := rfl
@[simp] theorem State.writeDraws_draws (n : Nat) : (s.writeDraws n).draws = n := rfl
@[simp] theorem State.writeDraws_loadPermitted (n : Nat) : (s.writeDraws n).loadPermitted = s.loadPermitted := rfl
@[simp] theorem State.writeDraws_loadResult (n : Nat) : (s.writeDraws n).loadResult = s.loadResult := rfl

/-! writeLoadPermitted -/
@[simp] theorem State.writeLoadPermitted_V (b : Bool) : (s.writeLoadPermitted b).V = s.V := rfl
@[simp] theorem State.writeLoadPermitted_I (b : Bool) : (s.writeLoadPermitted b).I = s.I := rfl
@[simp] theorem State.writeLoadPermitted_pc (b : Bool) : (s.writeLoadPermitted b).pc = s.pc := rfl
@[simp] theorem State.writeLoadPermitted_sp (b : Bool) : (s.writeLoadPermitted b).sp = s.sp := rfl
@[simp] theorem State.writeLoadPermitted_stack (b : Bool) : (s.writeLoadPermitted b).stack = s.stack := rfl
@[simp] theorem State.writeLoadPermitted_memory (b : Bool) : (s.writeLoadPermitted b).memory = s.memory := rfl
@[simp] theorem State.writeLoadPermitted_display (b : Bool) : (s.writeLoadPermitted b).display = s.display := rfl
@[simp] theorem State.writeLoadPermitted_DT (b : Bool) : (s.writeLoadPermitted b).DT = s.DT := rfl
@[simp] theorem State.writeLoadPermitted_ST (b : Bool) : (s.writeLoadPermitted b).ST = s.ST := rfl
@[simp] theorem State.writeLoadPermitted_fault (b : Bool) : (s.writeLoadPermitted b).fault = s.fault := rfl
@[simp] theorem State.writeLoadPermitted_keys (b : Bool) : (s.writeLoadPermitted b).keys = s.keys := rfl
@[simp] theorem State.writeLoadPermitted_rnd (b : Bool) : (s.writeLoadPermitted b).rnd = s.rnd := rfl
@[simp] theorem State.writeLoadPermitted_script (b : Bool) : (s.writeLoadPermitted b).script = s.script := rfl
@[simp] theorem State.writeLoadPermitted_draws (b : Bool) : (s.writeLoadPermitted b).draws = s.draws := rfl
@[simp] theorem State.writeLoadPermitted_loadPermitted (b : Bool) : (s.writeLoadPermitted b).loadPermitted = b := rfl
@[simp] theorem State.writeLoadPermitted_loadResult (b : Bool) : (s.writeLoadPermitted b).loadResult = s.loadResult := rfl

/-! writeLoadResult -/
@[simp] theorem State.writeLoadResult_V (r : Option LoadResult) : (s.writeLoadResult r).V = s.V := rfl
@[simp] theorem State.writeLoadResult_I (r : Option LoadResult) : (s.writeLoadResult r).I = s.I := rfl
@[simp] theorem State.writeLoadResult_pc (r : Option LoadResult) : (s.writeLoadResult r).pc = s.pc := rfl
@[simp] theorem State.writeLoadResult_sp (r : Option LoadResult) : (s.writeLoadResult r).sp = s.sp := rfl
@[simp] theorem State.writeLoadResult_stack (r : Option LoadResult) : (s.writeLoadResult r).stack = s.stack := rfl
@[simp] theorem State.writeLoadResult_memory (r : Option LoadResult) : (s.writeLoadResult r).memory = s.memory := rfl
@[simp] theorem State.writeLoadResult_display (r : Option LoadResult) : (s.writeLoadResult r).display = s.display := rfl
@[simp] theorem State.writeLoadResult_DT (r : Option LoadResult) : (s.writeLoadResult r).DT = s.DT := rfl
@[simp] theorem State.writeLoadResult_ST (r : Option LoadResult) : (s.writeLoadResult r).ST = s.ST := rfl
@[simp] theorem State.writeLoadResult_fault (r : Option LoadResult) : (s.writeLoadResult r).fault = s.fault := rfl
@[simp] theorem State.writeLoadResult_keys (r : Option LoadResult) : (s.writeLoadResult r).keys = s.keys := rfl
@[simp] theorem State.writeLoadResult_rnd (r : Option LoadResult) : (s.writeLoadResult r).rnd = s.rnd := rfl
@[simp] theorem State.writeLoadResult_script (r : Option LoadResult) : (s.writeLoadResult r).script = s.script := rfl
@[simp] theorem State.writeLoadResult_draws (r : Option LoadResult) : (s.writeLoadResult r).draws = s.draws := rfl
@[simp] theorem State.writeLoadResult_loadPermitted (r : Option LoadResult) : (s.writeLoadResult r).loadPermitted = s.loadPermitted := rfl
@[simp] theorem State.writeLoadResult_loadResult (r : Option LoadResult) : (s.writeLoadResult r).loadResult = r := rfl

/-! Reads through a write of another field -/
@[simp] theorem State.reg_writeI (w : Word) (q : Reg) : (s.writeI w).reg q = s.reg q := rfl
@[simp] theorem State.reg_writePc (w : Word) (q : Reg) : (s.writePc w).reg q = s.reg q := rfl
@[simp] theorem State.reg_writeSp (n : Fin 17) (q : Reg) : (s.writeSp n).reg q = s.reg q := rfl
@[simp] theorem State.reg_writeStack (k : Fin 16) (w : Word) (q : Reg) : (s.writeStack k w).reg q = s.reg q := rfl
@[simp] theorem State.reg_writeMemory (m : Memory) (q : Reg) : (s.writeMemory m).reg q = s.reg q := rfl
@[simp] theorem State.reg_writeDisplay (d : DisplayRows) (q : Reg) : (s.writeDisplay d).reg q = s.reg q := rfl
@[simp] theorem State.reg_writeDT (b : Byte) (q : Reg) : (s.writeDT b).reg q = s.reg q := rfl
@[simp] theorem State.reg_writeST (b : Byte) (q : Reg) : (s.writeST b).reg q = s.reg q := rfl
@[simp] theorem State.reg_writeFault (c : FaultCode) (q : Reg) : (s.writeFault c).reg q = s.reg q := rfl
@[simp] theorem State.reg_sampleInputs (k : BitVec 16) (b : Byte) (q : Reg) : (s.sampleInputs k b).reg q = s.reg q := rfl
@[simp] theorem State.reg_writeScript (ops : List HostOp) (q : Reg) : (s.writeScript ops).reg q = s.reg q := rfl
@[simp] theorem State.reg_writeDraws (n : Nat) (q : Reg) : (s.writeDraws n).reg q = s.reg q := rfl
@[simp] theorem State.reg_writeLoadPermitted (b : Bool) (q : Reg) : (s.writeLoadPermitted b).reg q = s.reg q := rfl
@[simp] theorem State.reg_writeLoadResult (r : Option LoadResult) (q : Reg) : (s.writeLoadResult r).reg q = s.reg q := rfl
@[simp] theorem State.stackEntry_writeV (r : Reg) (b : Byte) (j : Fin 16) : (s.writeV r b).stackEntry j = s.stackEntry j := rfl
@[simp] theorem State.stackEntry_writeVs (vs : Vector Byte 16) (j : Fin 16) : (s.writeVs vs).stackEntry j = s.stackEntry j := rfl
@[simp] theorem State.stackEntry_writeI (w : Word) (j : Fin 16) : (s.writeI w).stackEntry j = s.stackEntry j := rfl
@[simp] theorem State.stackEntry_writePc (w : Word) (j : Fin 16) : (s.writePc w).stackEntry j = s.stackEntry j := rfl
@[simp] theorem State.stackEntry_writeSp (n : Fin 17) (j : Fin 16) : (s.writeSp n).stackEntry j = s.stackEntry j := rfl
@[simp] theorem State.stackEntry_writeMemory (m : Memory) (j : Fin 16) : (s.writeMemory m).stackEntry j = s.stackEntry j := rfl
@[simp] theorem State.stackEntry_writeDisplay (d : DisplayRows) (j : Fin 16) : (s.writeDisplay d).stackEntry j = s.stackEntry j := rfl
@[simp] theorem State.stackEntry_writeDT (b : Byte) (j : Fin 16) : (s.writeDT b).stackEntry j = s.stackEntry j := rfl
@[simp] theorem State.stackEntry_writeST (b : Byte) (j : Fin 16) : (s.writeST b).stackEntry j = s.stackEntry j := rfl
@[simp] theorem State.stackEntry_writeFault (c : FaultCode) (j : Fin 16) : (s.writeFault c).stackEntry j = s.stackEntry j := rfl
@[simp] theorem State.stackEntry_sampleInputs (k : BitVec 16) (b : Byte) (j : Fin 16) : (s.sampleInputs k b).stackEntry j = s.stackEntry j := rfl
@[simp] theorem State.stackEntry_writeScript (ops : List HostOp) (j : Fin 16) : (s.writeScript ops).stackEntry j = s.stackEntry j := rfl
@[simp] theorem State.stackEntry_writeDraws (n : Nat) (j : Fin 16) : (s.writeDraws n).stackEntry j = s.stackEntry j := rfl
@[simp] theorem State.stackEntry_writeLoadPermitted (b : Bool) (j : Fin 16) : (s.writeLoadPermitted b).stackEntry j = s.stackEntry j := rfl
@[simp] theorem State.stackEntry_writeLoadResult (r : Option LoadResult) (j : Fin 16) : (s.writeLoadResult r).stackEntry j = s.stackEntry j := rfl
@[simp] theorem State.byteAt_writeV (r : Reg) (b : Byte) (a : Nat) : (s.writeV r b).byteAt a = s.byteAt a := rfl
@[simp] theorem State.byteAt_writeVs (vs : Vector Byte 16) (a : Nat) : (s.writeVs vs).byteAt a = s.byteAt a := rfl
@[simp] theorem State.byteAt_writeI (w : Word) (a : Nat) : (s.writeI w).byteAt a = s.byteAt a := rfl
@[simp] theorem State.byteAt_writePc (w : Word) (a : Nat) : (s.writePc w).byteAt a = s.byteAt a := rfl
@[simp] theorem State.byteAt_writeSp (n : Fin 17) (a : Nat) : (s.writeSp n).byteAt a = s.byteAt a := rfl
@[simp] theorem State.byteAt_writeStack (k : Fin 16) (w : Word) (a : Nat) : (s.writeStack k w).byteAt a = s.byteAt a := rfl
@[simp] theorem State.byteAt_writeDisplay (d : DisplayRows) (a : Nat) : (s.writeDisplay d).byteAt a = s.byteAt a := rfl
@[simp] theorem State.byteAt_writeDT (b : Byte) (a : Nat) : (s.writeDT b).byteAt a = s.byteAt a := rfl
@[simp] theorem State.byteAt_writeST (b : Byte) (a : Nat) : (s.writeST b).byteAt a = s.byteAt a := rfl
@[simp] theorem State.byteAt_writeFault (c : FaultCode) (a : Nat) : (s.writeFault c).byteAt a = s.byteAt a := rfl
@[simp] theorem State.byteAt_sampleInputs (k : BitVec 16) (b : Byte) (a : Nat) : (s.sampleInputs k b).byteAt a = s.byteAt a := rfl
@[simp] theorem State.byteAt_writeScript (ops : List HostOp) (a : Nat) : (s.writeScript ops).byteAt a = s.byteAt a := rfl
@[simp] theorem State.byteAt_writeDraws (n : Nat) (a : Nat) : (s.writeDraws n).byteAt a = s.byteAt a := rfl
@[simp] theorem State.byteAt_writeLoadPermitted (b : Bool) (a : Nat) : (s.writeLoadPermitted b).byteAt a = s.byteAt a := rfl
@[simp] theorem State.byteAt_writeLoadResult (r : Option LoadResult) (a : Nat) : (s.writeLoadResult r).byteAt a = s.byteAt a := rfl
@[simp] theorem State.cell_writeV (r : Reg) (b : Byte) (j : Nat) : (s.writeV r b).cell j = s.cell j := rfl
@[simp] theorem State.cell_writeVs (vs : Vector Byte 16) (j : Nat) : (s.writeVs vs).cell j = s.cell j := rfl
@[simp] theorem State.cell_writeI (w : Word) (j : Nat) : (s.writeI w).cell j = s.cell j := rfl
@[simp] theorem State.cell_writePc (w : Word) (j : Nat) : (s.writePc w).cell j = s.cell j := rfl
@[simp] theorem State.cell_writeSp (n : Fin 17) (j : Nat) : (s.writeSp n).cell j = s.cell j := rfl
@[simp] theorem State.cell_writeStack (k : Fin 16) (w : Word) (j : Nat) : (s.writeStack k w).cell j = s.cell j := rfl
@[simp] theorem State.cell_writeMemory (m : Memory) (j : Nat) : (s.writeMemory m).cell j = s.cell j := rfl
@[simp] theorem State.cell_writeDT (b : Byte) (j : Nat) : (s.writeDT b).cell j = s.cell j := rfl
@[simp] theorem State.cell_writeST (b : Byte) (j : Nat) : (s.writeST b).cell j = s.cell j := rfl
@[simp] theorem State.cell_writeFault (c : FaultCode) (j : Nat) : (s.writeFault c).cell j = s.cell j := rfl
@[simp] theorem State.cell_sampleInputs (k : BitVec 16) (b : Byte) (j : Nat) : (s.sampleInputs k b).cell j = s.cell j := rfl
@[simp] theorem State.cell_writeScript (ops : List HostOp) (j : Nat) : (s.writeScript ops).cell j = s.cell j := rfl
@[simp] theorem State.cell_writeDraws (n : Nat) (j : Nat) : (s.writeDraws n).cell j = s.cell j := rfl
@[simp] theorem State.cell_writeLoadPermitted (b : Bool) (j : Nat) : (s.writeLoadPermitted b).cell j = s.cell j := rfl
@[simp] theorem State.cell_writeLoadResult (r : Option LoadResult) (j : Nat) : (s.writeLoadResult r).cell j = s.cell j := rfl
@[simp] theorem State.keyDown_writeV (r : Reg) (b : Byte) (j : Nat) : (s.writeV r b).keyDown j = s.keyDown j := rfl
@[simp] theorem State.keyDown_writeVs (vs : Vector Byte 16) (j : Nat) : (s.writeVs vs).keyDown j = s.keyDown j := rfl
@[simp] theorem State.keyDown_writeI (w : Word) (j : Nat) : (s.writeI w).keyDown j = s.keyDown j := rfl
@[simp] theorem State.keyDown_writePc (w : Word) (j : Nat) : (s.writePc w).keyDown j = s.keyDown j := rfl
@[simp] theorem State.keyDown_writeSp (n : Fin 17) (j : Nat) : (s.writeSp n).keyDown j = s.keyDown j := rfl
@[simp] theorem State.keyDown_writeStack (k : Fin 16) (w : Word) (j : Nat) : (s.writeStack k w).keyDown j = s.keyDown j := rfl
@[simp] theorem State.keyDown_writeMemory (m : Memory) (j : Nat) : (s.writeMemory m).keyDown j = s.keyDown j := rfl
@[simp] theorem State.keyDown_writeDisplay (d : DisplayRows) (j : Nat) : (s.writeDisplay d).keyDown j = s.keyDown j := rfl
@[simp] theorem State.keyDown_writeDT (b : Byte) (j : Nat) : (s.writeDT b).keyDown j = s.keyDown j := rfl
@[simp] theorem State.keyDown_writeST (b : Byte) (j : Nat) : (s.writeST b).keyDown j = s.keyDown j := rfl
@[simp] theorem State.keyDown_writeFault (c : FaultCode) (j : Nat) : (s.writeFault c).keyDown j = s.keyDown j := rfl
@[simp] theorem State.keyDown_writeScript (ops : List HostOp) (j : Nat) : (s.writeScript ops).keyDown j = s.keyDown j := rfl
@[simp] theorem State.keyDown_writeDraws (n : Nat) (j : Nat) : (s.writeDraws n).keyDown j = s.keyDown j := rfl
@[simp] theorem State.keyDown_writeLoadPermitted (b : Bool) (j : Nat) : (s.writeLoadPermitted b).keyDown j = s.keyDown j := rfl
@[simp] theorem State.keyDown_writeLoadResult (r : Option LoadResult) (j : Nat) : (s.writeLoadResult r).keyDown j = s.keyDown j := rfl

/-! Reads through a write of the same field -/
@[simp] theorem State.reg_writeV (r : Reg) (b : Byte) (q : Reg) :
    (s.writeV r b).reg q = if q = r then b else s.reg q := by
  simp [State.reg, Vector.getElem_set, Fin.ext_iff, eq_comm]
@[simp] theorem State.reg_writeVs (vs : Vector Byte 16) (q : Reg) : (s.writeVs vs).reg q = vs[q] := rfl
@[simp] theorem State.stackEntry_writeStack (k : Fin 16) (w : Word) (j : Fin 16) :
    (s.writeStack k w).stackEntry j = if j = k then w else s.stackEntry j := by
  simp [State.stackEntry, Vector.getElem_set, Fin.ext_iff, eq_comm]
@[simp] theorem State.byteAt_writeMemory (m : Memory) (a : Nat) : (s.writeMemory m).byteAt a = m.read a := rfl
@[simp] theorem State.cell_writeDisplay (d : DisplayRows) (j : Nat) : (s.writeDisplay d).cell j = displayCell d j := rfl
@[simp] theorem State.keyDown_sampleInputs (k : BitVec 16) (b : Byte) (j : Nat) :
    (s.sampleInputs k b).keyDown j = k.getLsbD j := rfl

end Sys2Proof.Machine
end

