-- ==== Sys2Proof/Laws/Ops.lean ====
section
/-! SUPPORT. One lemma for each shared operation (Machine/Ops.lean, Operands.lean, Flags.lean): everything it can do, so
that no later proof unfolds it. -/

namespace Sys2Proof.Machine

@[simp] theorem raise_eq (c : FaultCode) (s : State) : raise c s = .next (s.writeFault c) := rfl

theorem State.halted_iff {s : State} : s.halted = true ↔ s.fault ≠ .none := by simp [State.halted]

/-! ## The return stack -/

theorem State.push_eq_some {s t : State} {w : Word} :
    s.push w = some t ↔ ∃ h : s.sp.val < 16, t = (s.writeStack ⟨s.sp.val, h⟩ w).writeSp ⟨s.sp.val + 1, by omega⟩ := by
  rw [State.push]
  split <;> simp [*, eq_comm]

theorem State.push_eq_none {s : State} {w : Word} : s.push w = none ↔ s.sp.val = 16 := by
  rw [State.push]
  split
  · simp; omega
  · simp; omega

theorem State.pop_eq_some {s t : State} {w : Word} :
    s.pop = some (w, t) ↔ ∃ h : 0 < s.sp.val,
      w = s.stackEntry ⟨s.sp.val - 1, by omega⟩ ∧ t = s.writeSp ⟨s.sp.val - 1, by omega⟩ := by
  rw [State.pop]
  split <;> simp [*, eq_comm]

theorem State.pop_eq_none {s : State} : s.pop = none ↔ s.sp.val = 0 := by
  rw [State.pop]
  split
  · simp; omega
  · simp; omega

/-! ## Program counter -/

theorem State.skipIf_pc (s : State) (c : Bool) : (s.skipIf c).pc = if c then s.pc + 2 else s.pc := rfl
theorem State.advancePc_pc (s : State) : s.advancePc.pc = s.pc + 2 := rfl
theorem State.rewindPc_pc (s : State) : s.rewindPc.pc = s.pc - 2 := rfl

/-! ## Operand values -/

@[simp] theorem zextAddr_toNat (nnn : Addr12) : (zextAddr nnn).toNat = nnn.toNat := by
  rw [zextAddr, BitVec.toNat_setWidth, Nat.mod_eq_of_lt]
  exact Nat.lt_trans nnn.isLt (by decide)

@[simp] theorem zextByte_toNat (b : Byte) : (zextByte b).toNat = b.toNat := by
  rw [zextByte, BitVec.toNat_setWidth, Nat.mod_eq_of_lt]
  exact Nat.lt_trans b.isLt (by decide)

/-- No wrap is possible: at most 0x050 + 1275 (R133). -/
@[simp] theorem glyphAddr_toNat (a : Byte) : (glyphAddr a).toNat = 0x050 + 5 * a.toNat := by
  have := a.isLt
  rw [glyphAddr, BitVec.toNat_ofNat, Nat.mod_eq_of_lt (by simp only [Config.fontBase]; omega)]

@[simp] theorem length_decimalDigits (a : Byte) : (decimalDigits a).length = 3 := rfl

theorem decimalDigits_toNat (a : Byte) :
    (decimalDigits a).map BitVec.toNat = [a.toNat / 100, a.toNat / 10 % 10, a.toNat % 10] := by
  have := a.isLt
  simp only [decimalDigits, List.map_cons, List.map_nil, BitVec.toNat_ofNat]
  congr 1
  · omega
  · congr 1
    · omega
    · rw [Nat.mod_eq_of_lt (by omega)]

@[simp] theorem length_firstRegs (s : State) (x : Reg) : (firstRegs s x).length = x.val + 1 := by
  simp [firstRegs]

theorem getD_firstRegs (s : State) (x : Reg) {k : Nat} (h : k ≤ x.val) :
    (firstRegs s x).getD k 0 = s.reg ⟨k, by omega⟩ := by
  have hk : k < x.val + 1 := by omega
  simp [firstRegs, State.reg, List.getD_eq_getElem?_getD, hk]

theorem getElem_loadRegs (vs : Vector Byte 16) (k : Nat) (bytes : List Byte) (q : Nat) (hq : q < 16) :
    (loadRegs vs k bytes)[q] = if k ≤ q ∧ q < k + bytes.length then bytes.getD (q - k) 0 else vs[q] := by
  induction bytes generalizing vs k with
  | nil => rw [loadRegs, if_neg (by simp only [List.length_nil]; omega)]
  | cons b bs ih =>
    rw [loadRegs, ih, List.length_cons, Vector.getElem_setIfInBounds]
    by_cases h1 : k = q
    · subst h1; simp
    · by_cases h2 : k + 1 ≤ q ∧ q < k + 1 + bs.length
      · rw [if_pos h2, if_pos (by omega)]
        obtain ⟨d, rfl⟩ : ∃ d, q = k + 1 + d := ⟨q - (k + 1), by omega⟩
        rw [show k + 1 + d - (k + 1) = d by omega, show k + 1 + d - k = d + 1 by omega]
        simp
      · rw [if_neg h2, if_neg h1, if_neg (by omega)]

/-! ## ALU results and flags -/

@[simp] theorem addResult_toNat (a b : Byte) : (addResult a b).toNat = (a.toNat + b.toNat) % 256 := by
  simp [addResult]

@[simp] theorem subResult_toNat (a b : Byte) : (subResult a b).toNat = (256 + a.toNat - b.toNat) % 256 := by
  have := a.isLt; have := b.isLt
  rw [subResult, BitVec.toNat_sub]; congr 1; omega

@[simp] theorem shrResult_toNat (a : Byte) : (shrResult a).toNat = a.toNat / 2 := by
  simp [shrResult, Nat.shiftRight_eq_div_pow]

@[simp] theorem shlResult_toNat (a : Byte) : (shlResult a).toNat = 2 * a.toNat % 256 := by
  simp [shlResult, Nat.shiftLeft_eq, Nat.mul_comm]

@[simp] theorem flagByte_toNat (c : Bool) : (flagByte c).toNat = if c then 1 else 0 := by cases c <;> rfl

theorem carryFlag_iff (a b : Byte) : carryFlag a b = true ↔ a.toNat + b.toNat > 255 := by simp [carryFlag]
theorem greaterFlag_iff (a b : Byte) : greaterFlag a b = true ↔ a.toNat > b.toNat := by simp [greaterFlag]

theorem shrFlag_iff (a : Byte) : shrFlag a = true ↔ a.toNat % 2 = 1 := by
  simp [shrFlag, BitVec.getLsbD, Nat.testBit_zero]

theorem shlFlag_iff (a : Byte) : shlFlag a = true ↔ 128 ≤ a.toNat := by
  have := a.isLt
  rw [shlFlag, BitVec.getLsbD, Nat.testBit_eq_decide_div_mod_eq]
  simp; omega

theorem State.writeFlagThenV_reg (s : State) (c : Bool) (x : Reg) (b : Byte) (q : Reg) :
    (s.writeFlagThenV c x b).reg q = if q = x then b else if q = VF then flagByte c else s.reg q := by
  simp [State.writeFlagThenV]

/-! ## Keys -/

theorem keyIndex_eq_some {a : Byte} {k : Fin 16} : keyIndex a = some k ↔ a.toNat = k.val := by
  rw [keyIndex]
  split
  · simp [Fin.ext_iff]
  · simp; omega

theorem keyIndex_eq_none {a : Byte} : keyIndex a = none ↔ 15 < a.toNat := by
  rw [keyIndex]
  split <;> simp <;> omega

theorem firstKeyDown_eq_some {s : State} {k : Nat} :
    firstKeyDown s = some k ↔ k < 16 ∧ s.keyDown k = true ∧ ∀ j < k, s.keyDown j = false := by
  rw [firstKeyDown, List.find?_range_eq_some]
  simp
  tauto

theorem firstKeyDown_eq_none {s : State} : firstKeyDown s = none ↔ ∀ k < 16, s.keyDown k = false := by
  simp [firstKeyDown]

end Sys2Proof.Machine
end

