-- ==== Sys2Proof/Laws/Display.lean ====
section
/-! SUPPORT. What the blitter leaves on the canvas, one pixel, one row and a run of rows at a time (Machine/Display.lean). -/

namespace Sys2Proof.Machine

/-- Two cells on the grid with the same index are the same cell. -/
theorem cellIndex_inj {cx cy cx' cy' : Nat} (h : cx < 64) (h' : cx' < 64) :
    cellIndex cx cy = cellIndex cx' cy' ↔ cx = cx' ∧ cy = cy' := by
  simp only [cellIndex, Config.displayWidth]; omega

theorem cellIndex_lt {cx cy : Nat} (hx : cx < 64) (hy : cy < 32) : cellIndex cx cy < 2048 := by
  simp only [cellIndex, Config.displayWidth]; omega

/-- A flip changes its own cell and no other. -/
theorem displayCell_flipCell (d : DisplayRows) (j k : Nat) :
    displayCell (flipCell d j) k = (displayCell d k ^^ decide (j < 2048 ∧ k = j)) := by
  unfold displayCell flipCell
  by_cases hj : j < 2048 <;> by_cases hk : k < 2048
  · simp only [hj, hk, dif_pos]
    by_cases hrow : j / 64 = k / 64
    · simp only [hrow, Vector.getElem_set_self, BitVec.getLsbD_xor, BitVec.getLsbD_twoPow]
      congr 1
      rw [show decide (j % 64 < 64) = true from decide_eq_true (Nat.mod_lt _ (by omega)), Bool.true_and]
      rw [decide_eq_decide, true_and]; omega
    · rw [Vector.getElem_set_ne _ _ hrow]
      have : k ≠ j := by rintro rfl; exact hrow rfl
      simp [this]
  · have : k ≠ j := by omega
    simp [hk, this]
  · simp [hj]
  · simp [hj, hk]

@[simp] theorem displayCell_blankDisplay (k : Nat) : displayCell blankDisplay k = false := by
  unfold displayCell blankDisplay
  split <;> simp

/-- Is the pixel drawn: a set bit, on the grid -/
def pixelDrawn (cx cy : Nat) (bit : Bool) : Bool := bit && decide (cx < 64 ∧ cy < 32)

/-- One pixel flips its own cell if it is drawn, and no other. -/
theorem drawPixel_cell (cx cy : Nat) (bit : Bool) (canvas : Canvas) (k : Nat) :
    displayCell (drawPixel cx cy bit canvas).1 k =
      (displayCell canvas.1 k ^^ (pixelDrawn cx cy bit && decide (k = cellIndex cx cy))) := by
  rw [drawPixel]
  simp only [Config.displayWidth, Config.displayHeight]
  split
  · rename_i h
    obtain ⟨hb, hx, hy⟩ := h
    have := cellIndex_lt hx hy
    simp [pixelDrawn, hb, hx, hy, displayCell_flipCell, this]
  · rename_i h
    have : pixelDrawn cx cy bit = false := by rw [Bool.eq_false_iff]; simpa [pixelDrawn] using h
    simp [this]

/-- One pixel collides if it is drawn on a cell that is set. -/
theorem drawPixel_collision (cx cy : Nat) (bit : Bool) (canvas : Canvas) :
    (drawPixel cx cy bit canvas).2 =
      (canvas.2 || (pixelDrawn cx cy bit && displayCell canvas.1 (cellIndex cx cy))) := by
  rw [drawPixel]
  simp only [Config.displayWidth, Config.displayHeight]
  split
  · rename_i h; simp [pixelDrawn, h]
  · rename_i h
    have : pixelDrawn cx cy bit = false := by rw [Bool.eq_false_iff]; simpa [pixelDrawn] using h
    simp [this]

/-- Is cell `k` in row `cy`, at one of the column offsets 0 to `m - 1` from `x0`, under a set bit of the byte? -/
def rowCovers (x0 cy : Nat) (byte : Byte) (m k : Nat) : Bool :=
  decide (k < 2048 ∧ k / 64 = cy ∧ x0 ≤ k % 64 ∧ k % 64 < x0 + m) && byte.getLsbD (7 - (k % 64 - x0))

theorem rowCovers_zero (x0 cy : Nat) (byte : Byte) (k : Nat) : rowCovers x0 cy byte 0 k = false := by
  have : ¬ (k < 2048 ∧ k / 64 = cy ∧ x0 ≤ k % 64 ∧ k % 64 < x0 + 0) := by omega
  simp only [rowCovers, this, decide_false, Bool.false_and]

/-- The cells of m + 1 pixels are those of m and the next one's, which is none of them. -/
theorem rowCovers_succ (x0 cy : Nat) (byte : Byte) (m k : Nat) :
    rowCovers x0 cy byte (m + 1) k =
      (rowCovers x0 cy byte m k ^^ (pixelDrawn (x0 + m) cy (spriteBit byte m) && decide (k = cellIndex (x0 + m) cy))) := by
  by_cases hk : k < 2048 ∧ k = cellIndex (x0 + m) cy ∧ x0 + m < 64
  · obtain ⟨h0, h1, h2⟩ := hk
    have hmod : k % 64 = x0 + m := by simp only [cellIndex, Config.displayWidth] at h1; omega
    have hdiv : k / 64 = cy := by simp only [cellIndex, Config.displayWidth] at h1; omega
    have hcy : cy < 32 := by omega
    have hsub : x0 + m - x0 = m := by omega
    simp [rowCovers, pixelDrawn, spriteBit, h0, hmod, hdiv, h2, hcy, ← h1, hsub]
  · have hdrawn : (pixelDrawn (x0 + m) cy (spriteBit byte m) && decide (k = cellIndex (x0 + m) cy)) = false := by
      simp only [pixelDrawn, Bool.and_eq_false_iff, decide_eq_false_iff_not]
      by_cases h1 : k = cellIndex (x0 + m) cy
      · left; right; intro h2; exact hk ⟨h1 ▸ cellIndex_lt h2.1 h2.2, h1, h2.1⟩
      · right; exact h1
    have hsame : (k < 2048 ∧ k / 64 = cy ∧ x0 ≤ k % 64 ∧ k % 64 < x0 + (m + 1)) ↔
        (k < 2048 ∧ k / 64 = cy ∧ x0 ≤ k % 64 ∧ k % 64 < x0 + m) := by
      constructor
      · rintro ⟨h0, h1, h2, h3⟩
        refine ⟨h0, h1, h2, ?_⟩
        by_contra h4
        exact hk ⟨h0, by simp only [cellIndex, Config.displayWidth]; omega, by omega⟩
      · rintro ⟨h0, h1, h2, h3⟩; exact ⟨h0, h1, h2, by omega⟩
    rw [hdrawn]; simp only [rowCovers, hsame, Bool.xor_false]

/-- The first `m` pixels of a row. -/
theorem drawPixels_spec (x0 cy : Nat) (byte : Byte) (canvas : Canvas) (m : Nat) :
    let after := (List.range m).foldl (fun acc c => drawPixel (x0 + c) cy (spriteBit byte c) acc) canvas
    (∀ k, displayCell after.1 k = (displayCell canvas.1 k ^^ rowCovers x0 cy byte m k)) ∧
      (after.2 = true ↔ canvas.2 = true ∨ ∃ k, rowCovers x0 cy byte m k = true ∧ displayCell canvas.1 k = true) := by
  induction m with
  | zero => simp [rowCovers_zero]
  | succ m ih =>
    obtain ⟨hcell, hhit⟩ := ih
    simp only [List.range_succ, List.foldl_append, List.foldl_cons, List.foldl_nil]
    constructor
    · intro k
      rw [drawPixel_cell, hcell, rowCovers_succ, Bool.xor_assoc]
    · have hfresh : pixelDrawn (x0 + m) cy (spriteBit byte m) = true →
          rowCovers x0 cy byte m (cellIndex (x0 + m) cy) = false := by
        intro h
        simp only [pixelDrawn, Bool.and_eq_true, decide_eq_true_eq] at h
        have : ¬ cellIndex (x0 + m) cy % 64 < x0 + m := by
          simp only [cellIndex, Config.displayWidth]; omega
        simp [rowCovers, this]
      rw [drawPixel_collision, Bool.or_eq_true, hhit, Bool.and_eq_true, or_assoc]
      apply or_congr_right
      constructor
      · rintro (⟨k, h1, h2⟩ | ⟨h1, h2⟩)
        · refine ⟨k, ?_, h2⟩
          rw [rowCovers_succ, h1]
          by_contra hc
          simp only [Bool.true_xor, Bool.not_eq_true', Bool.not_eq_false, Bool.and_eq_true, decide_eq_true_eq] at hc
          have := hfresh hc.1
          rw [← hc.2, h1] at this
          exact absurd this (by simp)
        · refine ⟨cellIndex (x0 + m) cy, ?_, ?_⟩
          · rw [rowCovers_succ, hfresh h1, h1]; simp
          · rw [hcell, hfresh h1, Bool.xor_false] at h2; exact h2
      · rintro ⟨k, h1, h2⟩
        rw [rowCovers_succ] at h1
        by_cases hk : rowCovers x0 cy byte m k = true
        · exact .inl ⟨k, hk, h2⟩
        · rw [Bool.not_eq_true] at hk
          rw [hk, Bool.false_xor, Bool.and_eq_true, decide_eq_true_eq] at h1
          obtain ⟨h1, rfl⟩ := h1
          exact .inr ⟨h1, by rw [hcell, hk, Bool.xor_false]; exact h2⟩

/-- One row flips exactly the cells it covers, and collides if one of them was set. -/
theorem drawRow_spec (x0 cy : Nat) (byte : Byte) (canvas : Canvas) :
    (∀ k, displayCell (drawRow x0 cy byte canvas).1 k = (displayCell canvas.1 k ^^ rowCovers x0 cy byte 8 k)) ∧
      ((drawRow x0 cy byte canvas).2 = true ↔
        canvas.2 = true ∨ ∃ k, rowCovers x0 cy byte 8 k = true ∧ displayCell canvas.1 k = true) :=
  drawPixels_spec x0 cy byte canvas 8

/-- Is cell `k` under a set bit of one of the rows from `cy` on? -/
def rowsCover (x0 cy : Nat) (rows : List Byte) (k : Nat) : Bool :=
  decide (cy ≤ k / 64 ∧ k / 64 < cy + rows.length) && rowCovers x0 (k / 64) (rows.getD (k / 64 - cy) 0) 8 k

theorem rowsCover_cons (x0 cy : Nat) (byte : Byte) (rows : List Byte) (k : Nat) :
    rowsCover x0 cy (byte :: rows) k = (rowCovers x0 cy byte 8 k ^^ rowsCover x0 (cy + 1) rows k) := by
  by_cases h : k / 64 = cy
  · have h' : ¬ (cy + 1 ≤ k / 64 ∧ k / 64 < cy + 1 + rows.length) := by omega
    simp only [rowsCover, List.length_cons, h, le_refl, Nat.sub_self, List.getD_cons_zero]
    have : ¬ cy + 1 ≤ cy := by omega
    simp [this]
  · have hrow : rowCovers x0 cy byte 8 k = false := by simp [rowCovers, h]
    rw [hrow, Bool.false_xor, rowsCover, rowsCover]
    by_cases h2 : cy + 1 ≤ k / 64
    · obtain ⟨d, hd⟩ : ∃ d, k / 64 = cy + 1 + d := ⟨k / 64 - (cy + 1), by omega⟩
      rw [hd, show cy + 1 + d - cy = d + 1 by omega, show cy + 1 + d - (cy + 1) = d by omega]
      congr 1
      · simp only [List.length_cons, decide_eq_decide]; omega
    · have : ¬ (cy ≤ k / 64 ∧ k / 64 < cy + (byte :: rows).length) := by omega
      simp only [this, h2, decide_false, false_and, Bool.false_and]

/-- A run of rows flips exactly the cells it covers, and collides if one of them was set before the draw. -/
theorem drawRows_spec (x0 cy : Nat) (rows : List Byte) (canvas : Canvas) :
    (∀ k, displayCell (drawRows x0 cy rows canvas).1 k = (displayCell canvas.1 k ^^ rowsCover x0 cy rows k)) ∧
      ((drawRows x0 cy rows canvas).2 = true ↔
        canvas.2 = true ∨ ∃ k, rowsCover x0 cy rows k = true ∧ displayCell canvas.1 k = true) := by
  induction rows generalizing cy canvas with
  | nil =>
    have : ∀ k, rowsCover x0 cy [] k = false := by
      intro k
      have : ¬ (cy ≤ k / 64 ∧ k / 64 < cy + ([] : List Byte).length) := by simp only [List.length_nil]; omega
      simp only [rowsCover, this, decide_false, Bool.false_and]
    simp [drawRows, this]
  | cons byte rows ih =>
    obtain ⟨hcell, hhit⟩ := ih (cy + 1) (drawRow x0 cy byte canvas)
    obtain ⟨rcell, rhit⟩ := drawRow_spec x0 cy byte canvas
    have hdisj : ∀ k, rowCovers x0 cy byte 8 k = true → rowsCover x0 (cy + 1) rows k = false := by
      intro k h
      simp only [rowCovers, Bool.and_eq_true, decide_eq_true_eq] at h
      have : ¬ cy + 1 ≤ k / 64 := by omega
      simp [rowsCover, this]
    rw [drawRows]
    constructor
    · intro k; rw [hcell, rcell, rowsCover_cons, Bool.xor_assoc]
    · rw [hhit, rhit, or_assoc]
      apply or_congr_right
      simp only [rcell, rowsCover_cons]
      constructor
      · rintro (⟨k, h1, h2⟩ | ⟨k, h1, h2⟩)
        · exact ⟨k, by simp [h1, hdisj k h1], h2⟩
        · have hno : rowCovers x0 cy byte 8 k = false := by
            by_contra hc; simp [hdisj k (by simpa using hc)] at h1
          exact ⟨k, by simp [h1, hno], by simpa [hno] using h2⟩
      · rintro ⟨k, h1, h2⟩
        by_cases hr : rowCovers x0 cy byte 8 k = true
        · exact .inl ⟨k, hr, h2⟩
        · rw [Bool.not_eq_true] at hr
          exact .inr ⟨k, by simpa [hr] using h1, by simpa [hr] using h2⟩

end Sys2Proof.Machine
end

