-- ==== Sys2Proof/Laws/PerInstr.lean ====
section
/-! SUPPORT. Statements made of every instruction, one lemma per constructor (LAWS.json names the family): the encoded word
lies in the instruction's own row of the opcode map (spec/30_encoding.md R65). -/

namespace Sys2Proof.Laws.EncodedInRow

/-- A row of the opcode map carries the instruction's mnemonic and selects its encoded word. -/
def Statement (i : Instr) : Prop := ∃ r ∈ opcodeMap, r.mnemonic = i.mnemonic ∧ r.selects (encode i) = true

/-- Row `k` of the map is the one. -/
theorem of_row {i : Instr} (r : OpcodeRow) (hr : r ∈ opcodeMap) (hm : r.mnemonic = i.mnemonic)
    (hs : encode i &&& r.mask = r.pattern) : Statement i := ⟨r, hr, hm, by simp [OpcodeRow.selects, hs]⟩

theorem cls : Statement (.cls) :=
  of_row ⟨"CLS", 0xFFFF, 0x00E0⟩ (by decide) rfl rfl
theorem ret : Statement (.ret) :=
  of_row ⟨"RET", 0xFFFF, 0x00EE⟩ (by decide) rfl rfl
theorem sys (nnn : Addr12) : Statement (.sys nnn) :=
  of_row ⟨"SYS_addr", 0xF000, 0x0000⟩ (by decide) rfl (formatNNN_and_F000 _ _)
theorem jp (nnn : Addr12) : Statement (.jp nnn) :=
  of_row ⟨"JP_addr", 0xF000, 0x1000⟩ (by decide) rfl (formatNNN_and_F000 _ _)
theorem call (nnn : Addr12) : Statement (.call nnn) :=
  of_row ⟨"CALL_addr", 0xF000, 0x2000⟩ (by decide) rfl (formatNNN_and_F000 _ _)
theorem seVxKk (x : Reg) (kk : Byte) : Statement (.seVxKk x kk) :=
  of_row ⟨"SE_Vx_kk", 0xF000, 0x3000⟩ (by decide) rfl (formatXKK_and_F000 _ _ _)
theorem sneVxKk (x : Reg) (kk : Byte) : Statement (.sneVxKk x kk) :=
  of_row ⟨"SNE_Vx_kk", 0xF000, 0x4000⟩ (by decide) rfl (formatXKK_and_F000 _ _ _)
theorem seVxVy (x y : Reg) : Statement (.seVxVy x y) :=
  of_row ⟨"SE_Vx_Vy", 0xF000, 0x5000⟩ (by decide) rfl (formatXYN_and_F000 _ _ _ _)
theorem ldVxKk (x : Reg) (kk : Byte) : Statement (.ldVxKk x kk) :=
  of_row ⟨"LD_Vx_kk", 0xF000, 0x6000⟩ (by decide) rfl (formatXKK_and_F000 _ _ _)
theorem addVxKk (x : Reg) (kk : Byte) : Statement (.addVxKk x kk) :=
  of_row ⟨"ADD_Vx_kk", 0xF000, 0x7000⟩ (by decide) rfl (formatXKK_and_F000 _ _ _)
theorem ldVxVy (x y : Reg) : Statement (.ldVxVy x y) :=
  of_row ⟨"LD_Vx_Vy", 0xF00F, 0x8000⟩ (by decide) rfl (formatXYN_and_F00F _ _ _ _)
theorem orVxVy (x y : Reg) : Statement (.orVxVy x y) :=
  of_row ⟨"OR_Vx_Vy", 0xF00F, 0x8001⟩ (by decide) rfl (formatXYN_and_F00F _ _ _ _)
theorem andVxVy (x y : Reg) : Statement (.andVxVy x y) :=
  of_row ⟨"AND_Vx_Vy", 0xF00F, 0x8002⟩ (by decide) rfl (formatXYN_and_F00F _ _ _ _)
theorem xorVxVy (x y : Reg) : Statement (.xorVxVy x y) :=
  of_row ⟨"XOR_Vx_Vy", 0xF00F, 0x8003⟩ (by decide) rfl (formatXYN_and_F00F _ _ _ _)
theorem addVxVy (x y : Reg) : Statement (.addVxVy x y) :=
  of_row ⟨"ADD_Vx_Vy", 0xF00F, 0x8004⟩ (by decide) rfl (formatXYN_and_F00F _ _ _ _)
theorem subVxVy (x y : Reg) : Statement (.subVxVy x y) :=
  of_row ⟨"SUB_Vx_Vy", 0xF00F, 0x8005⟩ (by decide) rfl (formatXYN_and_F00F _ _ _ _)
theorem shrVx (x : Reg) : Statement (.shrVx x) :=
  of_row ⟨"SHR_Vx", 0xF00F, 0x8006⟩ (by decide) rfl (formatXYN_and_F00F _ _ _ _)
theorem subnVxVy (x y : Reg) : Statement (.subnVxVy x y) :=
  of_row ⟨"SUBN_Vx_Vy", 0xF00F, 0x8007⟩ (by decide) rfl (formatXYN_and_F00F _ _ _ _)
theorem shlVx (x : Reg) : Statement (.shlVx x) :=
  of_row ⟨"SHL_Vx", 0xF00F, 0x800E⟩ (by decide) rfl (formatXYN_and_F00F _ _ _ _)
theorem sneVxVy (x y : Reg) : Statement (.sneVxVy x y) :=
  of_row ⟨"SNE_Vx_Vy", 0xF000, 0x9000⟩ (by decide) rfl (formatXYN_and_F000 _ _ _ _)
theorem ldI (nnn : Addr12) : Statement (.ldI nnn) :=
  of_row ⟨"LD_I_addr", 0xF000, 0xA000⟩ (by decide) rfl (formatNNN_and_F000 _ _)
theorem jpV0 (nnn : Addr12) : Statement (.jpV0 nnn) :=
  of_row ⟨"JP_V0_addr", 0xF000, 0xB000⟩ (by decide) rfl (formatNNN_and_F000 _ _)
theorem rndVxKk (x : Reg) (kk : Byte) : Statement (.rndVxKk x kk) :=
  of_row ⟨"RND_Vx_kk", 0xF000, 0xC000⟩ (by decide) rfl (formatXKK_and_F000 _ _ _)
theorem drw (x y : Reg) (n : Fin 16) : Statement (.drw x y n) :=
  of_row ⟨"DRW_Vx_Vy_n", 0xF000, 0xD000⟩ (by decide) rfl (formatXYN_and_F000 _ _ _ _)
theorem skp (x : Reg) : Statement (.skp x) :=
  of_row ⟨"SKP_Vx", 0xF0FF, 0xE09E⟩ (by decide) rfl (formatXKK_and_F0FF _ _ _)
theorem sknp (x : Reg) : Statement (.sknp x) :=
  of_row ⟨"SKNP_Vx", 0xF0FF, 0xE0A1⟩ (by decide) rfl (formatXKK_and_F0FF _ _ _)
theorem ldVxDt (x : Reg) : Statement (.ldVxDt x) :=
  of_row ⟨"LD_Vx_DT", 0xF0FF, 0xF007⟩ (by decide) rfl (formatXKK_and_F0FF _ _ _)
theorem ldVxK (x : Reg) : Statement (.ldVxK x) :=
  of_row ⟨"LD_Vx_K", 0xF0FF, 0xF00A⟩ (by decide) rfl (formatXKK_and_F0FF _ _ _)
theorem ldDtVx (x : Reg) : Statement (.ldDtVx x) :=
  of_row ⟨"LD_DT_Vx", 0xF0FF, 0xF015⟩ (by decide) rfl (formatXKK_and_F0FF _ _ _)
theorem ldStVx (x : Reg) : Statement (.ldStVx x) :=
  of_row ⟨"LD_ST_Vx", 0xF0FF, 0xF018⟩ (by decide) rfl (formatXKK_and_F0FF _ _ _)
theorem addIVx (x : Reg) : Statement (.addIVx x) :=
  of_row ⟨"ADD_I_Vx", 0xF0FF, 0xF01E⟩ (by decide) rfl (formatXKK_and_F0FF _ _ _)
theorem ldFVx (x : Reg) : Statement (.ldFVx x) :=
  of_row ⟨"LD_F_Vx", 0xF0FF, 0xF029⟩ (by decide) rfl (formatXKK_and_F0FF _ _ _)
theorem ldBVx (x : Reg) : Statement (.ldBVx x) :=
  of_row ⟨"LD_B_Vx", 0xF0FF, 0xF033⟩ (by decide) rfl (formatXKK_and_F0FF _ _ _)
theorem ldMemVx (x : Reg) : Statement (.ldMemVx x) :=
  of_row ⟨"LD__I__Vx", 0xF0FF, 0xF055⟩ (by decide) rfl (formatXKK_and_F0FF _ _ _)
theorem ldVxMem (x : Reg) : Statement (.ldVxMem x) :=
  of_row ⟨"LD_Vx__I", 0xF0FF, 0xF065⟩ (by decide) rfl (formatXKK_and_F0FF _ _ _)

end Sys2Proof.Laws.EncodedInRow
end

