-- ==== Sys2Proof/Laws/Step.lean ====
section
/-! SUPPORT. The shared forms of the meanings (one lemma each), the fetch, and the inversion of the step: everything one
step can do (Machine/IndexMemory.lean, KeypadTimers.lean, Engine.lean, Step.lean). -/

namespace Sys2Proof.Machine

/-! ## Shared forms of the meanings -/

/-- A store through `I` either takes the address fault or changes memory alone. -/
theorem storeFromIndex_cases (bytes : List Byte) (s : State) (hne : bytes ≠ []) :
    (s.I.toNat + bytes.length > 4096 ∧ storeFromIndex bytes s = .next (s.writeFault .addressOutOfRange)) ∨
    (s.I.toNat + bytes.length ≤ 4096 ∧
      storeFromIndex bytes s = .next (s.writeMemory (s.memory.writeAll s.I.toNat bytes))) := by
  have hpos : 0 < bytes.length := List.length_pos_iff.mpr hne
  rw [storeFromIndex]
  split
  · rename_i h
    rw [State.writeBlock_eq_none] at h
    exact .inl ⟨h.2, rfl⟩
  · rename_i t h
    rw [State.writeBlock_eq_some] at h
    obtain ⟨h, rfl⟩ := h
    exact .inr ⟨by have : indexAddr s = s.I.toNat := rfl; omega, rfl⟩

/-- A skip on a key either takes the key fault or moves `pc` alone. -/
theorem skipOnKey_cases (x : Reg) (pressed : Bool) (s : State) :
    (15 < (s.reg x).toNat ∧ skipOnKey x pressed s = .next (s.writeFault .keyIndexOutOfRange)) ∨
    ((s.reg x).toNat ≤ 15 ∧
      skipOnKey x pressed s = .next (s.skipIf (s.keyDown (s.reg x).toNat == pressed))) := by
  rw [skipOnKey]
  split
  · rename_i h
    exact .inl ⟨keyIndex_eq_none.mp h, rfl⟩
  · rename_i k h
    have hk := keyIndex_eq_some.mp h
    exact .inr ⟨by omega, by rw [hk]⟩

/-! ## Fetch -/

theorem fetchWord_eq_some {s : State} {w : Word} :
    fetchWord s = some w ↔
      s.pc.toNat ≤ 0xFFE ∧ w = wordOfBytes (s.byteAt s.pc.toNat) (s.byteAt (s.pc.toNat + 1)) := by
  rw [fetchWord]
  split <;> simp_all [eq_comm]

theorem fetchWord_eq_none {s : State} : fetchWord s = none ↔ 0xFFE < s.pc.toNat := by
  rw [fetchWord]
  split <;> simp_all

/-! ## The operation performed -/

theorem nextOp_cons {s : State} {op : HostOp} {rest : List HostOp} (h : s.script = op :: rest) :
    nextOp s = (op, s.writeScript rest) := by
  rw [nextOp]; simp [h]

theorem nextOp_nil {s : State} (h : s.script = []) :
    nextOp s = (.step (Config.freeKeys s.draws) (Config.freeRnd s.draws), s.writeDraws (s.draws + 1)) := by
  rw [nextOp]; simp [h]

theorem step_cons {s : State} {op : HostOp} {rest : List HostOp} (h : s.script = op :: rest) :
    step s = perform op (s.writeScript rest) := by
  rw [step, nextOp_cons h]

theorem step_nil {s : State} (h : s.script = []) :
    step s = hostStep (Config.freeKeys s.draws) (Config.freeRnd s.draws) (s.writeDraws (s.draws + 1)) := by
  rw [step, nextOp_nil h, perform]

/-- Choosing the operation touches the script and the draw count alone. -/
theorem nextOp_state (s : State) :
    (nextOp s).2 = (s.writeScript s.script.tail).writeDraws (if s.script = [] then s.draws + 1 else s.draws) := by
  rcases hs : s.script with _ | ⟨op, rest⟩
  · rw [nextOp_nil hs]; simp [State.writeDraws, State.writeScript, hs]
  · rw [nextOp_cons hs]; simp [State.writeDraws, State.writeScript]

/-- Everything a host's `Step` can do: nothing, a fetch fault, a no-op, an instruction. -/
theorem hostStep_cases (keys : BitVec 16) (rnd : Byte) (s : State) :
    (s.fault ≠ .none ∧ hostStep keys rnd s = .next s) ∨
    (s.fault = .none ∧ 0xFFE < s.pc.toNat ∧
      hostStep keys rnd s =
        .next (((s.sampleInputs keys rnd).writeLoadPermitted false).writeFault .addressOutOfRange)) ∨
    (s.fault = .none ∧ s.pc.toNat ≤ 0xFFE ∧
      ((∃ u, decodeWord (wordOfBytes (s.byteAt s.pc.toNat) (s.byteAt (s.pc.toNat + 1))) = .error u ∧
          hostStep keys rnd s = .next ((s.sampleInputs keys rnd).writeLoadPermitted false).advancePc) ∨
        ∃ i, decodeWord (wordOfBytes (s.byteAt s.pc.toNat) (s.byteAt (s.pc.toNat + 1))) = .ok i ∧
          hostStep keys rnd s = exec i ((s.sampleInputs keys rnd).writeLoadPermitted false).advancePc)) := by
  rw [hostStep]
  by_cases hf : s.fault = .none
  · have hnot : ¬ s.halted = true := by rw [State.halted_iff]; simpa using hf
    rw [if_neg hnot, runInstruction]
    refine .inr ?_
    rcases hw : fetchWord ((s.sampleInputs keys rnd).writeLoadPermitted false) with _ | w
    · exact .inl ⟨hf, fetchWord_eq_none.mp hw, rfl⟩
    · obtain ⟨hpc, rfl⟩ := fetchWord_eq_some.mp hw
      refine .inr ⟨hf, hpc, ?_⟩
      rcases hd : decodeWord (wordOfBytes (s.byteAt s.pc.toNat) (s.byteAt (s.pc.toNat + 1))) with u | i
      · exact .inl ⟨u, rfl, by simp [hd, execUndefined]⟩
      · exact .inr ⟨i, rfl, by simp [hd]⟩
  · rw [if_pos (State.halted_iff.mpr hf)]
    exact .inl ⟨hf, rfl⟩

end Sys2Proof.Machine
end

