-- ==== Sys2Proof/Tests/Slice0.lean ====
section
/-! SUPPORT. The model's own tests. Every expected result is taken from spec/: the vectors of 95_test_vectors.md (their
number stands in the comment) or a rule's own example. A test runs ONE step from the reset state with a word placed at
0x200, as that file's preamble says. Then, for each obligation with hypotheses, a concrete state and operands that meet them
all. -/

namespace Sys2Proof.Tests

open Sys2Proof.Machine

/-- After reset, with the word at 0x200, no key pressed and `rnd` = 0 (95_test_vectors.md, preamble) -/
def start (w : Nat) : State := State.reset.withFetchWord 16 w

/-- The same with the given inputs for the step -/
def startWith (w : Nat) (keys : BitVec 16) (rnd : Byte) : State := (start w).writeScript [.step keys rnd]

/-- The bytes stored from an address on -/
def store (s : State) (base : Nat) (bytes : List Byte) : State := s.writeMemory (s.memory.writeAll base bytes)

/-- Does the next step answer a next state with the property? -/
def check (s : State) (p : State → Bool) : Bool :=
  match step s with
  | .next t => p t
  | .fault _ => false
  | .refused _ => false

/-- Are exactly the listed display cells on? -/
def onlyOn (s : State) (cells : List Nat) : Bool := s.display == cells.foldl flipCell blankDisplay

/-! ## Well-formedness -/

/-- R66: 0x0E0 and 0x0EE under high nibble 0 are CLS and RET, not SYS. -/
theorem test_wellFormed_refuses_sys_0E0 : (Instr.sys 0x0E0).wellFormed = false := by decide
theorem test_wellFormed_refuses_sys_0EE : (Instr.sys 0x0EE).wellFormed = false := by decide
theorem test_wellFormed_takes_sys_0E1 : (Instr.sys 0x0E1).wellFormed = true := by decide

/-! ## Decoding: a word of every constructor, from the patterns of R65 -/

theorem test_decode_family0 : decodeWord 0b0000000011100000 = .ok .cls ∧ decodeWord 0b0000000011101110 = .ok .ret ∧
    decodeWord 0x0123 = .ok (.sys 0x123) ∧ decodeWord 0x00E1 = .ok (.sys 0x0E1) := by decide
theorem test_decode_nnn : decodeWord 0b0001001000000100 = .ok (.jp 0x204) ∧ decodeWord 0x220A = .ok (.call 0x20A) ∧
    decodeWord 0xA300 = .ok (.ldI 0x300) ∧ decodeWord 0xB300 = .ok (.jpV0 0x300) := by decide
theorem test_decode_xkk : decodeWord 0b0011101001000010 = .ok (.seVxKk 10 0x42) ∧
    decodeWord 0x4311 = .ok (.sneVxKk 3 0x11) ∧ decodeWord 0x60FE = .ok (.ldVxKk 0 0xFE) ∧
    decodeWord 0x7002 = .ok (.addVxKk 0 2) ∧ decodeWord 0xC10F = .ok (.rndVxKk 1 0x0F) := by decide
theorem test_decode_xy : decodeWord 0b0101000100100000 = .ok (.seVxVy 1 2) ∧ decodeWord 0x5127 = .ok (.seVxVy 1 2) ∧
    decodeWord 0x9120 = .ok (.sneVxVy 1 2) ∧ decodeWord 0x9123 = .ok (.sneVxVy 1 2) ∧
    decodeWord 0b1101000100100010 = .ok (.drw 1 2 2) := by decide
theorem test_decode_family8 : decodeWord 0b1000000100100000 = .ok (.ldVxVy 1 2) ∧ decodeWord 0x8121 = .ok (.orVxVy 1 2) ∧
    decodeWord 0x8122 = .ok (.andVxVy 1 2) ∧ decodeWord 0x8123 = .ok (.xorVxVy 1 2) ∧
    decodeWord 0x8F14 = .ok (.addVxVy 15 1) ∧ decodeWord 0x81F5 = .ok (.subVxVy 1 15) ∧
    decodeWord 0x8126 = .ok (.shrVx 1) ∧ decodeWord 0x8127 = .ok (.subnVxVy 1 2) ∧
    decodeWord 0x812E = .ok (.shlVx 1) := by decide
theorem test_decode_familyE : decodeWord 0b1110001010011110 = .ok (.skp 2) ∧ decodeWord 0xE2A1 = .ok (.sknp 2) := by decide
theorem test_decode_familyF : decodeWord 0b1111000100000111 = .ok (.ldVxDt 1) ∧ decodeWord 0xF30A = .ok (.ldVxK 3) ∧
    decodeWord 0xF015 = .ok (.ldDtVx 0) ∧ decodeWord 0xF018 = .ok (.ldStVx 0) ∧ decodeWord 0xF21E = .ok (.addIVx 2) ∧
    decodeWord 0xF029 = .ok (.ldFVx 0) ∧ decodeWord 0xF033 = .ok (.ldBVx 0) ∧ decodeWord 0xF255 = .ok (.ldMemVx 2) ∧
    decodeWord 0xF265 = .ok (.ldVxMem 2) := by decide
/-- R71: words of the three families that match no sub-case, and a lone byte -/
theorem test_decode_rejects : decodeWord 0x8AB8 = .error (.family8 8) ∧ decodeWord 0xE19F = .error (.familyE 0x9F) ∧
    decodeWord 0xF1FF = .error (.familyF 0xFF) ∧ decode [0x12] = .error .truncated := by decide
/-- R42: "memory[0x200] = 0x12, memory[0x201] = 0x34 is the word 0x1234, JP 0x234" -/
theorem test_decode_bytes : decode [0x12, 0x34, 0x56] = .ok (.jp 0x234, [0x56]) := by decide
theorem test_decodeTableWord : decodeTableWord 16 0x00E0 = some .cls ∧ decodeTableWord 16 0xF065 = some (.ldVxMem 0) ∧
    decodeTableWord 16 0x8008 = none := by decide
/-- R72: the assembler's words -/
theorem test_encode : encode (.shrVx 3) = 0x8306 ∧ encode (.drw 1 2 2) = 0xD122 ∧ encode (.ldMemVx 1) = 0xF155 ∧
    encode (.sneVxVy 1 2) = 0x9120 ∧ encode (.call 0x20A) = 0x220A := by decide

/-! ## One step -/

/-- TF5 -/
theorem test_undefined_word :
    check (start 0x8128 |>.writeV 1 3 |>.writeV 2 5 |>.writeV VF 9) (fun t => t.pc == 0x202 && t.reg 1 == 3 && t.reg VF == 9 && t.fault == .none) = true := by decide
/-- TF6 -/
theorem test_undefined_word_no_key_lookup :
    check (start 0xE19F |>.writeV 1 200) (fun t => t.pc == 0x202 && t.fault == .none) = true := by decide
/-- TF8 -/
theorem test_fetch_at_FFE :
    check (store (((start 0x3000).writePc 0xFFE)) 0xFFE [0x30, 0x00]) (fun t => t.pc == 0x1002 && t.fault == .none) = true := by decide
/-- TF9 -/
theorem test_fetch_at_FFF :
    check ((start 0x3000).writePc 0xFFF) (fun t => t.pc == 0xFFF && t.fault == .addressOutOfRange) = true := by decide
/-- TF11 -/
theorem test_halted :
    check ((start 0x6FAB).writeFault .stackUnderflow) (fun t => t.pc == 0x200 && t.reg VF == 0 && t.fault == .stackUnderflow) = true := by decide
/-- TF12 -/
theorem test_odd_pc :
    check (store ((start 0x0000).writePc 0x201) 0x201 [0x12, 0x34]) (fun t => t.pc == 0x234 && t.fault == .none) = true := by decide
/-- TF2 -/
theorem test_sys :
    check (start 0x0123) (fun t => t.pc == 0x202 && t.fault == .none && t.sp == 0) = true := by decide
/-- TC2 -/
theorem test_jp :
    check (start 0x1201) (fun t => t.pc == 0x201) = true := by decide
/-- TC5 -/
theorem test_call :
    check ((start 0x2300).writeSp 15) (fun t => t.stackEntry 15 == 0x202 && t.sp == 16 && t.pc == 0x300) = true := by decide
/-- TC6 -/
theorem test_call_overflow :
    check ((start 0x2300).writeSp 16) (fun t => t.fault == .stackOverflow && t.sp == 16 && t.pc == 0x202 && t.stackEntry 15 == 0) = true := by decide
/-- TC7 -/
theorem test_ret :
    check (((start 0x00EE).writeSp 1).writeStack 0 0x456) (fun t => t.sp == 0 && t.pc == 0x456 && t.stackEntry 0 == 0x456) = true := by decide
/-- TC9 -/
theorem test_ret_underflow :
    check (start 0x00EE) (fun t => t.fault == .stackUnderflow && t.sp == 0 && t.pc == 0x202) = true := by decide
/-- TC10 -/
theorem test_se_kk :
    check (start 0x3A42 |>.writeV 10 0x42) (fun t => t.pc == 0x204) = true := by decide
/-- TC11 -/
theorem test_se_kk_not :
    check (start 0x3A42 |>.writeV 10 0x43) (fun t => t.pc == 0x202) = true := by decide
/-- TC12 -/
theorem test_sne_kk :
    check (start 0x4A42 |>.writeV 10 0x42) (fun t => t.pc == 0x202) = true := by decide
/-- TC13 -/
theorem test_sne_kk_taken :
    check (start 0x4A42 |>.writeV 10 0x43) (fun t => t.pc == 0x204) = true := by decide
/-- TC16 -/
theorem test_se_xy :
    check (start 0x512F |>.writeV 1 7 |>.writeV 2 7) (fun t => t.pc == 0x204) = true := by decide
/-- TC15 -/
theorem test_se_xy_not :
    check (start 0x5120 |>.writeV 1 7 |>.writeV 2 8) (fun t => t.pc == 0x202) = true := by decide
/-- TC20 -/
theorem test_sne_xy :
    check (start 0x9123 |>.writeV 1 7 |>.writeV 2 8) (fun t => t.pc == 0x204) = true := by decide
/-- TC18 -/
theorem test_sne_xy_not :
    check (start 0x9120 |>.writeV 1 7 |>.writeV 2 7) (fun t => t.pc == 0x202) = true := by decide
/-- TC22 -/
theorem test_jp_v0 :
    check (start 0xBFFF |>.writeV 0 0xFF) (fun t => t.pc == 0x10FE && t.fault == .none) = true := by decide
/-- TA1 -/
theorem test_ld_kk :
    check (start 0x6FAB) (fun t => t.reg VF == 0xAB) = true := by decide
/-- TA2 -/
theorem test_add_kk_no_flag :
    check (start 0x7F01 |>.writeV VF 0xFF) (fun t => t.reg VF == 0) = true := by decide
/-- TA3 -/
theorem test_add_kk :
    check (start 0x70FF) (fun t => t.reg 0 == 0xFF && t.reg VF == 0) = true := by decide
/-- TA4 -/
theorem test_ld_xy :
    check (start 0x8120 |>.writeV 1 1 |>.writeV 2 2) (fun t => t.reg 1 == 2 && t.reg 2 == 2) = true := by decide
/-- TA6 -/
theorem test_or :
    check (start 0x8121 |>.writeV 1 0xF0 |>.writeV 2 0x0F |>.writeV VF 7) (fun t => t.reg 1 == 0xFF && t.reg VF == 7) = true := by decide
/-- TA7 -/
theorem test_and :
    check (start 0x8122 |>.writeV 1 0xF0 |>.writeV 2 0x3C |>.writeV VF 7) (fun t => t.reg 1 == 0x30 && t.reg VF == 7) = true := by decide
/-- TA8 -/
theorem test_xor :
    check (start 0x8123 |>.writeV 1 0xF0 |>.writeV 2 0x3C |>.writeV VF 7) (fun t => t.reg 1 == 0xCC && t.reg VF == 7) = true := by decide
/-- S3 -/
theorem test_add_carry :
    check (start 0x8124 |>.writeV 1 250 |>.writeV 2 10) (fun t => t.reg 1 == 4 && t.reg VF == 1 && t.reg 2 == 10) = true := by decide
/-- TA13 -/
theorem test_add_into_vf :
    check (start 0x8FA4 |>.writeV VF 0xF0 |>.writeV 10 0x20) (fun t => t.reg VF == 0x10) = true := by decide
/-- S4 -/
theorem test_sub_borrow :
    check (start 0x8125 |>.writeV 1 5 |>.writeV 2 10) (fun t => t.reg 1 == 251 && t.reg VF == 0) = true := by decide
/-- TA19 -/
theorem test_sub_vf_operand :
    check (start 0x81F5 |>.writeV 1 9 |>.writeV VF 4) (fun t => t.reg 1 == 5 && t.reg VF == 1) = true := by decide
/-- TA26 -/
theorem test_shr :
    check (start 0x8126 |>.writeV 1 5 |>.writeV 2 0xFF) (fun t => t.reg 1 == 2 && t.reg VF == 1 && t.reg 2 == 0xFF) = true := by decide
/-- TA30 -/
theorem test_shr_vf :
    check (start 0x8F06 |>.writeV VF 3) (fun t => t.reg VF == 1) = true := by decide
/-- TA22 -/
theorem test_subn :
    check (start 0x8127 |>.writeV 1 5 |>.writeV 2 10) (fun t => t.reg 1 == 5 && t.reg VF == 1) = true := by decide
/-- TA24 -/
theorem test_subn_equal :
    check (start 0x8127 |>.writeV 1 7 |>.writeV 2 7 |>.writeV VF 1) (fun t => t.reg 1 == 0 && t.reg VF == 0) = true := by decide
/-- TA31 -/
theorem test_shl :
    check (start 0x812E |>.writeV 1 0x81 |>.writeV 2 0xFF) (fun t => t.reg 1 == 0x02 && t.reg VF == 1) = true := by decide
/-- TA32 -/
theorem test_shl_no_flag :
    check (start 0x812E |>.writeV 1 0x40 |>.writeV 2 0xFF |>.writeV VF 1) (fun t => t.reg 1 == 0x80 && t.reg VF == 0) = true := by decide
/-- TA35 -/
theorem test_rnd :
    check (startWith 0xC10F 0 0xA7) (fun t => t.reg 1 == 0x07) = true := by decide
/-- TA38 -/
theorem test_rnd_vf :
    check (startWith 0xCF3C 0 0xFF) (fun t => t.reg VF == 0x3C) = true := by decide
/-- TM2 -/
theorem test_ld_i :
    check (start 0xAFFF) (fun t => t.I == 0x0FFF) = true := by decide
/-- TM4 -/
theorem test_add_i :
    check (start 0xF11E |>.writeI 0x0F01 |>.writeV 1 0xFF |>.writeV VF 5) (fun t => t.I == 0x1000 && t.reg VF == 5) = true := by decide
/-- TM5 -/
theorem test_add_i_wraps :
    check (start 0xF11E |>.writeI 0xFFFF |>.writeV 1 0xFF) (fun t => t.I == 0x00FE) = true := by decide
/-- TM7 -/
theorem test_ld_f :
    check (start 0xF129 |>.writeV 1 0xA) (fun t => t.I == 0x0082) = true := by decide
/-- TM10 -/
theorem test_ld_f_no_mask :
    check (start 0xF129 |>.writeV 1 255) (fun t => t.I == 0x054B && t.fault == .none) = true := by decide
/-- TM11 -/
theorem test_ld_b :
    check (start 0xF133 |>.writeI 0x300 |>.writeV 1 254) (fun t => t.byteAt 0x300 == 2 && t.byteAt 0x301 == 5 && t.byteAt 0x302 == 4 && t.I == 0x300) = true := by decide
/-- TM14 -/
theorem test_ld_b_range :
    check (start 0xF133 |>.writeI 0xFFE |>.writeV 1 100) (fun t => t.fault == .addressOutOfRange && t.byteAt 0xFFE == 0 && t.pc == 0x202) = true := by decide
/-- TM16 -/
theorem test_ld_mem :
    check (start 0xF255 |>.writeI 0x400 |>.writeV 0 0x11 |>.writeV 1 0x22 |>.writeV 2 0x33 |>.writeV 3 0x44) (fun t => t.byteAt 0x400 == 0x11 && t.byteAt 0x402 == 0x33 && t.byteAt 0x403 == 0 && t.I == 0x400) = true := by decide
/-- TM18 -/
theorem test_ld_mem_range :
    check (start 0xF155 |>.writeI 0xFFF |>.writeV 0 0xAB |>.writeV 1 0xCD) (fun t => t.fault == .addressOutOfRange && t.byteAt 0xFFF == 0) = true := by decide
/-- TM21 -/
theorem test_ld_from_mem :
    check (store (start 0xF265 |>.writeI 0x400 |>.writeV 3 0x77) 0x400 [0xDE, 0xAD, 0xBE, 0xEF]) (fun t => t.reg 0 == 0xDE && t.reg 2 == 0xBE && t.reg 3 == 0x77 && t.I == 0x400) = true := by decide
/-- TM24 -/
theorem test_ld_from_mem_own_byte :
    check (start 0xF065 |>.writeI 0x200) (fun t => t.reg 0 == 0xF0) = true := by decide
/-- S2 -/
theorem test_cls :
    check (start 0x00E0 |>.writeDisplay (flipCell blankDisplay 2047) |>.writeV VF 1) (fun t => onlyOn t [] && t.reg VF == 1) = true := by decide
/-- TG1 -/
theorem test_drw_collision :
    check (store (((start 0xD011).writeI 0x300).writeDisplay (flipCell blankDisplay 3)) 0x300 [0xFF]) (fun t => onlyOn t [0, 1, 2, 4, 5, 6, 7] && t.reg VF == 1) = true := by decide
/-- TG3 -/
theorem test_drw_corner :
    check (store (start 0xD122 |>.writeI 0x300 |>.writeV 1 126 |>.writeV 2 63) 0x300 [0xC0, 0xFF]) (fun t => onlyOn t [2046, 2047] && t.reg VF == 0) = true := by decide
/-- TK1 -/
theorem test_skp :
    check (startWith 0xE29E 0x0020 0 |>.writeV 2 5) (fun t => t.pc == 0x204) = true := by decide
/-- TK6 -/
theorem test_skp_no_mask :
    check (startWith 0xE29E 0x0001 0 |>.writeV 2 16) (fun t => t.fault == .keyIndexOutOfRange && t.pc == 0x202) = true := by decide
/-- TK3 -/
theorem test_sknp :
    check (start 0xE2A1 |>.writeV 2 5) (fun t => t.pc == 0x204) = true := by decide
/-- TK4 -/
theorem test_sknp_pressed :
    check (startWith 0xE2A1 0x0020 0 |>.writeV 2 5) (fun t => t.pc == 0x202) = true := by decide
/-- TK14 -/
theorem test_ld_dt :
    check (start 0xF107 |>.writeDT 4) (fun t => t.reg 1 == 4 && t.DT == 4) = true := by decide
/-- S7 -/
theorem test_ld_k :
    check (startWith 0xF30A 0x0280 0) (fun t => t.reg 3 == 7 && t.pc == 0x202) = true := by decide
/-- TK9 -/
theorem test_ld_k_waits :
    check (start 0xF30A) (fun t => t.pc == 0x200 && t.reg 3 == 0) = true := by decide
/-- TK16 -/
theorem test_set_dt :
    check (start 0xF015 |>.writeV 0 7) (fun t => t.DT == 7) = true := by decide
/-- TK18 -/
theorem test_set_st :
    check (start 0xF018 |>.writeV 0 2) (fun t => t.ST == 2 && t.soundOn) = true := by decide
/-- R157, TK22, TK23 -/
theorem test_tick :
    check ((((State.reset.writeDT 255).writeST 1).writeFault .stackOverflow).writeScript [.tick]) (fun t => t.DT == 254 && t.ST == 0 && !t.soundOn && t.fault == .stackOverflow) = true := by decide
/-- TK21 -/
theorem test_tick_at_zero :
    check (State.reset.writeScript [.tick]) (fun t => t.DT == 0 && t.ST == 0) = true := by decide
/-- TZ1 -/
theorem test_reset :
    check ((((State.reset.writeV 3 9).writeFault .addressOutOfRange).writeSp 4).writeScript [.reset]) (fun t => t.reg 3 == 0 && t.fault == .none && t.sp == 0 && t.pc == 0x200 && t.byteAt 0x50 == 0xF0 && t.byteAt 0x9F == 0x80 && t.byteAt 0xA0 == 0) = true := by decide
/-- TZ2 -/
theorem test_load :
    check (State.reset.writeScript [.load [0x12, 0x34]]) (fun t => t.byteAt 0x200 == 0x12 && t.byteAt 0x201 == 0x34 && t.byteAt 0x202 == 0 && t.loadResult == some .ok) = true := by decide
/-- R184: a program of 3585 bytes is refused with no state change. -/
theorem test_load_too_long : loadProgram (List.replicate 3585 7) State.reset = (State.reset, .capacityExceeded) := by
  rw [loadProgram, List.length_replicate, if_pos (by decide)]
/-- The font of R183: glyph A at 0x082 is F0 90 F0 90 90. -/
theorem test_font : State.reset.memory.readAll 0x082 5 = [0xF0, 0x90, 0xF0, 0x90, 0x90] := by decide
theorem test_font_length : font.length = 80 := by decide
/-- R166: the fault codes -/
theorem test_fault_codes : FaultCode.stackOverflow.code = 1 ∧ FaultCode.stackUnderflow.code = 2 ∧
    FaultCode.addressOutOfRange.code = 3 ∧ FaultCode.keyIndexOutOfRange.code = 4 := by decide
/-- With nothing scripted the next operation is a `Step`: the reset state runs the SYS no-op at 0x200 (TZ4). -/
theorem test_reset_steps : check State.reset (fun t => t.pc == 0x202) = true := by decide

/-! ## Witnesses: states and operands that meet each obligation's hypotheses -/

theorem witness_EncodeThenDecodeGivesTheInstruction :
    (Instr.sys 0x0E1).wellFormed = true ∧ (Instr.drw 15 15 15).wellFormed = true := by decide
/-- one word for each of the four outcomes of the statement's chain -/
theorem witness_DecodeThenEncodeClearsIgnoredNibbles :
    decodeWord 0x5FFF = .ok (.seVxVy 15 15) ∧ decodeWord 0x9FF1 = .ok (.sneVxVy 15 15) ∧
    decodeWord 0x8FF6 = .ok (.shrVx 15) ∧ decodeWord 0x8FFE = .ok (.shlVx 15) ∧
    decodeWord 0x8FF7 = .ok (.subnVxVy 15 15) := by decide
theorem witness_StepRunsTheDecodedInstruction :
    ((start 0x6FAB).script = .step 0 0 :: [] ∧ (start 0x6FAB).fault = .none ∧ (start 0x6FAB).pc.toNat ≤ 0xFFE ∧
      decodeWord (wordOfBytes ((start 0x6FAB).byteAt 0x200) ((start 0x6FAB).byteAt 0x201)) = .ok (.ldVxKk 15 0xAB)) ∧
    (State.reset.script = [] ∧ State.reset.fault = .none ∧ State.reset.pc.toNat ≤ 0xFFE ∧
      decodeWord (wordOfBytes (State.reset.byteAt 0x200) (State.reset.byteAt 0x201)) = .ok (.sys 0)) := by decide
theorem witness_FetchReadsBigEndianAtPc :
    (State.reset.writePc 0xFFE).pc.toNat ≤ 0xFFE ∧ (State.reset.writePc 0x201).pc.toNat ≤ 0xFFE := by decide
theorem witness_UndefinedWordOnlyAdvancesPc :
    (start 0xF1FF).script = .step 0 0 :: [] ∧ (start 0xF1FF).fault = .none ∧ (start 0xF1FF).pc.toNat ≤ 0xFFE ∧
      decodeWord (wordOfBytes ((start 0xF1FF).byteAt 0x200) ((start 0xF1FF).byteAt 0x201)) = .error (.familyF 0xFF) := by
  decide
theorem witness_FetchOutOfRangeTakesTheAddressFault :
    ((start 0).writePc 0xFFF).script = .step 0 0 :: [] ∧ ((start 0).writePc 0xFFF).fault = .none ∧
      0xFFE < ((start 0).writePc 0xFFF).pc.toNat := by decide
theorem witness_HaltedStepChangesNothing :
    ((start 0).writeFault .stackOverflow).script = .step 0 0 :: [] ∧
      ((start 0).writeFault .stackOverflow).fault ≠ .none := by decide

/-- A halted engine, as a run leaves it -/
def haltedState : State := (State.reset.writeFault .stackUnderflow).writeLoadPermitted false

theorem haltedState_inv (ops : List HostOp) : (haltedState.writeScript ops).Inv := by
  refine ⟨rfl, by show (0x200 : Word).toNat ≤ _; decide, ?_, fun _ => rfl⟩
  intro k
  show ((Vector.replicate 16 (0 : Word))[k]).toNat ≤ _
  simp
theorem witness_FaultStaysUntilReset :
    (haltedState.writeScript [.tick]).Inv ∧ (haltedState.writeScript [.tick]).fault ≠ .none ∧
      (haltedState.writeScript [.tick]).script.head? ≠ some .reset ∧
      ∃ t, step (haltedState.writeScript [.tick]) = .next t :=
  ⟨haltedState_inv _, by decide, by decide, _, rfl⟩
theorem witness_FaultStaysUntilReset_not_tick :
    (haltedState.writeScript [.step 0 0]).Inv ∧ (haltedState.writeScript [.step 0 0]).fault ≠ .none ∧
      (haltedState.writeScript [.step 0 0]).script.head? ≠ some .tick ∧
      ∃ t, step (haltedState.writeScript [.step 0 0]) = .next t :=
  ⟨haltedState_inv _, by decide, by decide, _, rfl⟩
theorem witness_FaultsAreExactlyTheList :
    State.reset.fault = .none ∧ exec .ret State.reset = .next (State.reset.writeFault .stackUnderflow) := ⟨rfl, rfl⟩
/-- every instruction that can fault, at the first value that does -/
theorem witness_FaultingInstructionWritesOnlyTheLatch :
    raisedBy .ret State.reset ≠ .none ∧ raisedBy (.call 0) (State.reset.writeSp 16) ≠ .none ∧
    raisedBy (.drw 0 0 15) (State.reset.writeI 0xFF2) ≠ .none ∧ raisedBy (.drw 0 0 1) (State.reset.writeI 0x1000) ≠ .none ∧
    raisedBy (.ldBVx 0) (State.reset.writeI 0xFFE) ≠ .none ∧ raisedBy (.ldMemVx 15) (State.reset.writeI 0xFF1) ≠ .none ∧
    raisedBy (.ldVxMem 1) (State.reset.writeI 0xFFF) ≠ .none ∧ raisedBy (.skp 2) (State.reset.writeV 2 16) ≠ .none ∧
    raisedBy (.sknp 2) (State.reset.writeV 2 16) ≠ .none := by decide
/-- A state away from reset: one nested call, the top of memory written, `pc` at the last address a word is fetched from -/
def runningState : State :=
  store (((start 0x3000).writePc 0xFFE).writeStack 0 0x1000 |>.writeSp 1) 0xFFE [0x30, 0x00]

theorem witness_EveryStepKeepsTheInvariant : runningState.Inv ∧ ∃ t, step runningState = .next t := by
  refine ⟨⟨by decide, by decide, by decide, fun h => absurd rfl h⟩, _, rfl⟩
theorem witness_MemoriesThatReadAlikeAreEqual :
    Memory.wf [(0x50, 0), (0xFFF, 1)] = true ∧ Memory.wf (Memory.write [(0xFFF, 1)] 0x50 0) = true ∧
      Memory.write [(0xFFF, 1)] 0x50 0 = [(0x50, 0), (0xFFF, 1)] := by decide
theorem witness_ResetLeavesTheResetValues : (haltedState.writeScript [.reset]).script = .reset :: [] := rfl
theorem witness_LoadPlacesTheProgramBytes :
    State.reset.memory.wf = true ∧ ([] : List Byte).length ≤ 3584 ∧ (List.replicate 3584 (7 : Byte)).length ≤ 3584 ∧
      3584 < (List.replicate 3585 (7 : Byte)).length := by
  rw [List.length_replicate, List.length_replicate]
  exact ⟨rfl, by decide, by decide, by decide⟩
theorem witness_LoadIsPermittedOnce :
    ((State.reset.writeScript [.load []]).script = .load [] :: [] ∧
      (State.reset.writeScript [.load []]).loadPermitted = true) ∧
    ((haltedState.writeScript [.load []]).script = .load [] :: [] ∧
      (haltedState.writeScript [.load []]).loadPermitted = false) := ⟨⟨rfl, rfl⟩, rfl, rfl⟩
theorem witness_TickCountsBothTimersDown : (haltedState.writeScript [.tick]).script = .tick :: [] := rfl
theorem witness_OnlySixInstructionsWriteTheFlag :
    exec (.addVxVy 1 2) State.reset = .next (State.reset.writeFlagThenV false 1 0) ∧
      (Instr.addVxVy 1 2).isDestination 3 = false ∧ ¬ ((3 : Reg) = VF ∧ (Instr.addVxVy 1 2).writesFlag = true) ∧
      (Instr.addVxVy 1 2).writesFlag = true ∧ raisedBy (.addVxVy 1 2) State.reset = .none ∧
      (Instr.addVxVy 1 2).isDestination VF = false := ⟨rfl, by decide, by decide, by decide, by decide, by decide⟩
theorem witness_JumpsSetPc :
    exec (.jpV0 0xFFF) (State.reset.writeV 0 0xFF) = .next ((State.reset.writeV 0 0xFF).writePc 0x10FE) ∧
      0xFFE < (0xFFF : Addr12).toNat + ((State.reset.writeV 0 0xFF).reg 0).toNat := ⟨rfl, by decide⟩
theorem witness_CallPushesTheReturnAddress :
    State.reset.sp.val < 16 ∧ (State.reset.writeSp 15).sp.val < 16 := by decide
theorem witness_RetPopsTheReturnAddress :
    0 < (State.reset.writeSp 1).sp.val ∧ 0 < (State.reset.writeSp 16).sp.val := by decide
theorem witness_CallThenRetComesBack : (State.reset.writeSp 15).sp.val < 16 := by decide
theorem witness_SelfJumpChangesNothing :
    (start 0x1200).script = .step 0 0 :: [] ∧ (start 0x1200).fault = .none ∧ (start 0x1200).pc.toNat ≤ 0xFFE ∧
      ((start 0x1200).byteAt (start 0x1200).pc.toNat).toNat * 256 +
        ((start 0x1200).byteAt ((start 0x1200).pc.toNat + 1)).toNat = 0x1000 + (start 0x1200).pc.toNat := by decide
theorem witness_StoresWriteExactlyTheirBytes :
    State.reset.memory.wf = true ∧ indexAddr (State.reset.writeI 0xFFD) + 2 ≤ 0xFFF ∧
      indexAddr (State.reset.writeI 0xFF0) + (15 : Reg).val ≤ 0xFFF := by decide
theorem witness_BlockLoadFillsTheRegisters :
    indexAddr (State.reset.writeI 0xFF0) + (15 : Reg).val ≤ 0xFFF ∧
      indexAddr (State.reset.writeI 0xFFF) + (0 : Reg).val ≤ 0xFFF := by decide
theorem witness_StoreThenLoadGivesTheRegistersBack :
    (State.reset.writeI 0xFF0).memory.wf = true ∧ indexAddr (State.reset.writeI 0xFF0) + (15 : Reg).val ≤ 0xFFF := by decide
theorem witness_StoredWordIsFetchedNext :
    ((State.reset.writeI 0xFFE).writePc 0xFFE).memory.wf = true ∧
      ((State.reset.writeI 0xFFE).writePc 0xFFE).I = ((State.reset.writeI 0xFFE).writePc 0xFFE).pc ∧
      1 ≤ (1 : Reg).val ∧ ((State.reset.writeI 0xFFE).writePc 0xFFE).I.toNat + (1 : Reg).val ≤ 0xFFF := by decide
theorem witness_DrwFlipsExactlyTheCoveredCells :
    ((0 : Fin 16).val = 0 ∨ indexAddr (State.reset.writeI 0xFFFF) + (0 : Fin 16).val - 1 ≤ 0xFFF) ∧
      ((15 : Fin 16).val = 0 ∨ indexAddr (State.reset.writeI 0xFF1) + (15 : Fin 16).val - 1 ≤ 0xFFF) := by decide
theorem witness_DrawingTwiceRestoresTheDisplay :
    (0 : Reg) ≠ VF ∧ (14 : Reg) ≠ VF ∧
      ((15 : Fin 16).val = 0 ∨ indexAddr (State.reset.writeI 0xFF1) + (15 : Fin 16).val - 1 ≤ 0xFFF) := by decide
theorem witness_KeySkipsTestTheNamedKey : ((State.reset.writeV 2 15).reg 2).toNat ≤ 15 := by decide
theorem witness_WaitForKeyTakesTheLeastKey :
    (15 < 16 ∧ (State.reset.sampleInputs 0x8000 0).keyDown 15 = true ∧
      ∀ j, j < 15 → (State.reset.sampleInputs 0x8000 0).keyDown j = false) ∧
    ∀ k, k < 16 → State.reset.keyDown k = false := by decide
theorem witness_EachPartHasOnlyItsWriters :
    exec .cls State.reset = .next (State.reset.writeDisplay blankDisplay) ∧ Instr.cls.writesMemory = false ∧
      (Instr.ldI 0).writesDisplay = false ∧ Instr.cls.writesI = false ∧ Instr.cls.writesStack = false ∧
      (∀ x, Instr.cls ≠ .ldDtVx x) ∧ (∀ x, Instr.cls ≠ .ldStVx x) ∧ Instr.cls.movesPc = false :=
  ⟨rfl, by decide, by decide, by decide, by decide, by decide, by decide, by decide⟩
theorem witness_InputsReachOnlyTheirReaders :
    (Instr.rndVxKk 0 0).readsKeys = false ∧ (Instr.skp 0).readsRnd = false := by decide
theorem witness_PlacedWordRunsNext :
    State.reset.memory.wf = true ∧ decodeWord 0x00E0 = .ok .cls ∧ State.reset.pc.toNat ≤ 0xFFE := by decide

end Sys2Proof.Tests
end

section
/-! SUPPORT. The proofs of the state family (spec/10_state.md): what every instruction can do to the state, said once, and from it which
parts change, what VF holds, what the inputs reach, and the invariant. -/

namespace Sys2Proof.Machine

/-! ## One equation per case: the instructions that can raise a fault, where they raise none, and LD Vx,K -/

section Equations

variable {s : State} {x y : Reg}

theorem exec_ret (h : 0 < s.sp.val) :
    exec .ret s =
      .next ((s.writeSp ⟨s.sp.val - 1, by omega⟩).writePc (s.stackEntry ⟨s.sp.val - 1, by omega⟩)) := by
  simp only [exec, execRet, State.pop_eq_some.mpr ⟨h, rfl, rfl⟩]

theorem exec_call (nnn : Addr12) (h : s.sp.val < 16) :
    exec (.call nnn) s =
      .next (((s.writeStack ⟨s.sp.val, h⟩ s.pc).writeSp ⟨s.sp.val + 1, by omega⟩).writePc (zextAddr nnn)) := by
  simp only [exec, execCall, State.push_eq_some.mpr ⟨h, rfl⟩]

/-- The display and the collision after DRW Vx,Vy,n (R142) -/
def drawnCanvas (s : State) (x y : Reg) (n : Nat) : Canvas :=
  drawRows (originColumn (s.reg x)) (originRow (s.reg y)) (s.memory.readAll s.I.toNat n) (s.display, false)

theorem exec_drw (n : Fin 16) (h : n.val = 0 ∨ s.I.toNat + n.val ≤ 4096) :
    exec (.drw x y n) s =
      .next ((s.writeDisplay (drawnCanvas s x y n.val).1).writeV VF (flagByte (drawnCanvas s x y n.val).2)) := by
  have hread : s.readBlock (indexAddr s) n.val = some (s.memory.readAll s.I.toNat n.val) :=
    State.readBlock_eq_some.mpr ⟨h, rfl⟩
  simp only [exec, execDrw, hread, drawnCanvas]

theorem storeFromIndex_eq {bytes : List Byte} (h : s.I.toNat + bytes.length ≤ 4096) :
    storeFromIndex bytes s = .next (s.writeMemory (s.memory.writeAll s.I.toNat bytes)) := by
  have hwrite : s.writeBlock (indexAddr s) bytes = some (s.writeMemory (s.memory.writeAll s.I.toNat bytes)) :=
    State.writeBlock_eq_some.mpr ⟨.inr h, rfl⟩
  simp only [storeFromIndex, hwrite]

theorem storeFromIndex_eq_fault {bytes : List Byte} (h : 4096 < s.I.toNat + bytes.length) (hne : bytes ≠ []) :
    storeFromIndex bytes s = .next (s.writeFault .addressOutOfRange) := by
  rcases storeFromIndex_cases bytes s hne with ⟨-, heq⟩ | ⟨hle, -⟩
  · exact heq
  · omega

theorem exec_ldBVx (h : s.I.toNat + 3 ≤ 4096) :
    exec (.ldBVx x) s = .next (s.writeMemory (s.memory.writeAll s.I.toNat (decimalDigits (s.reg x)))) :=
  storeFromIndex_eq h

theorem exec_ldMemVx (h : s.I.toNat + (x.val + 1) ≤ 4096) :
    exec (.ldMemVx x) s = .next (s.writeMemory (s.memory.writeAll s.I.toNat (firstRegs s x))) :=
  storeFromIndex_eq (by rw [length_firstRegs]; exact h)

theorem exec_ldVxMem (h : s.I.toNat + (x.val + 1) ≤ 4096) :
    exec (.ldVxMem x) s = .next (s.writeVs (loadRegs s.V 0 (s.memory.readAll s.I.toNat (x.val + 1)))) := by
  have hread : s.readBlock (indexAddr s) (x.val + 1) = some (s.memory.readAll s.I.toNat (x.val + 1)) :=
    State.readBlock_eq_some.mpr ⟨.inr h, rfl⟩
  simp only [exec, execLdVxMem, hread]

theorem skipOnKey_eq (pressed : Bool) (h : (s.reg x).toNat ≤ 15) :
    skipOnKey x pressed s = .next (s.skipIf (s.keyDown (s.reg x).toNat == pressed)) := by
  rcases skipOnKey_cases x pressed s with ⟨hgt, -⟩ | ⟨-, heq⟩
  · omega
  · exact heq

theorem skipOnKey_eq_fault (pressed : Bool) (h : 15 < (s.reg x).toNat) :
    skipOnKey x pressed s = .next (s.writeFault .keyIndexOutOfRange) := by
  rcases skipOnKey_cases x pressed s with ⟨-, heq⟩ | ⟨hle, -⟩
  · exact heq
  · omega

theorem exec_skp (h : (s.reg x).toNat ≤ 15) :
    exec (.skp x) s = .next (s.skipIf (s.keyDown (s.reg x).toNat == true)) := skipOnKey_eq true h

theorem exec_sknp (h : (s.reg x).toNat ≤ 15) :
    exec (.sknp x) s = .next (s.skipIf (s.keyDown (s.reg x).toNat == false)) := skipOnKey_eq false h

theorem exec_ldVxK_of_down {k : Nat} (h : firstKeyDown s = some k) :
    exec (.ldVxK x) s = .next (s.writeV x (BitVec.ofNat 8 k)) := by
  simp only [exec, execLdVxK, h]

theorem exec_ldVxK_of_none (h : firstKeyDown s = none) : exec (.ldVxK x) s = .next s.rewindPc := by
  simp only [exec, execLdVxK, h]

end Equations

/-! ## Where an instruction raises no fault, by the list of R160 to R165 -/

section NoFault

variable {s : State} {x y : Reg}

theorem raisedBy_ret : raisedBy .ret s = .none ↔ 0 < s.sp.val :=
  (Ne.ite_eq_right_iff (by decide)).trans Nat.pos_iff_ne_zero.symm

theorem raisedBy_call {nnn : Addr12} : raisedBy (.call nnn) s = .none ↔ s.sp.val < 16 :=
  (Ne.ite_eq_right_iff (by decide)).trans (by omega)

theorem raisedBy_drw {n : Fin 16} : raisedBy (.drw x y n) s = .none ↔ n.val = 0 ∨ s.I.toNat + n.val ≤ 4096 :=
  (Ne.ite_eq_right_iff (by decide)).trans (by omega)

theorem raisedBy_ldBVx : raisedBy (.ldBVx x) s = .none ↔ s.I.toNat + 3 ≤ 4096 :=
  (Ne.ite_eq_right_iff (by decide)).trans (by omega)

theorem raisedBy_ldMemVx : raisedBy (.ldMemVx x) s = .none ↔ s.I.toNat + (x.val + 1) ≤ 4096 :=
  (Ne.ite_eq_right_iff (by decide)).trans (by omega)

theorem raisedBy_ldVxMem : raisedBy (.ldVxMem x) s = .none ↔ s.I.toNat + (x.val + 1) ≤ 4096 :=
  (Ne.ite_eq_right_iff (by decide)).trans (by omega)

theorem raisedBy_skp : raisedBy (.skp x) s = .none ↔ (s.reg x).toNat ≤ 15 :=
  (Ne.ite_eq_right_iff (by decide)).trans not_lt

theorem raisedBy_sknp : raisedBy (.sknp x) s = .none ↔ (s.reg x).toNat ≤ 15 :=
  (Ne.ite_eq_right_iff (by decide)).trans not_lt

end NoFault

/-- Where the list of R160 to R165 gives a fault, the instruction writes the latch and nothing else (R163). -/
theorem exec_eq_fault {i : Instr} {s : State} (h : raisedBy i s ≠ .none) :
    exec i s = .next (s.writeFault (raisedBy i s)) := by
  cases i
  case ret =>
    obtain ⟨hsp, -⟩ := ite_ne_right_iff.mp h
    rw [show raisedBy .ret s = .stackUnderflow from if_pos hsp]
    simp only [exec, execRet, State.pop_eq_none.mpr hsp, raise_eq]
  case call nnn =>
    obtain ⟨hsp, -⟩ := ite_ne_right_iff.mp h
    rw [show raisedBy (.call nnn) s = .stackOverflow from if_pos hsp]
    simp only [exec, execCall, State.push_eq_none.mpr hsp, raise_eq]
  case drw x y n =>
    obtain ⟨hI, -⟩ := ite_ne_right_iff.mp h
    rw [show raisedBy (.drw x y n) s = .addressOutOfRange from if_pos hI]
    have hread : s.readBlock (indexAddr s) n.val = none :=
      State.readBlock_eq_none.mpr ⟨hI.1, by rw [indexAddr]; omega⟩
    simp only [exec, execDrw, hread, raise_eq]
  case ldBVx x =>
    obtain ⟨hI, -⟩ := ite_ne_right_iff.mp h
    rw [show raisedBy (.ldBVx x) s = .addressOutOfRange from if_pos hI]
    exact storeFromIndex_eq_fault (by rw [length_decimalDigits]; omega) (List.cons_ne_nil _ _)
  case ldMemVx x =>
    obtain ⟨hI, -⟩ := ite_ne_right_iff.mp h
    rw [show raisedBy (.ldMemVx x) s = .addressOutOfRange from if_pos hI]
    exact storeFromIndex_eq_fault (by rw [length_firstRegs]; omega)
      (List.length_pos_iff.mp (by rw [length_firstRegs]; omega))
  case ldVxMem x =>
    obtain ⟨hI, -⟩ := ite_ne_right_iff.mp h
    rw [show raisedBy (.ldVxMem x) s = .addressOutOfRange from if_pos hI]
    have hread : s.readBlock (indexAddr s) (x.val + 1) = none :=
      State.readBlock_eq_none.mpr ⟨by omega, by rw [indexAddr]; omega⟩
    simp only [exec, execLdVxMem, hread, raise_eq]
  case skp x =>
    obtain ⟨hkey, -⟩ := ite_ne_right_iff.mp h
    rw [show raisedBy (.skp x) s = .keyIndexOutOfRange from if_pos hkey]
    exact skipOnKey_eq_fault true hkey
  case sknp x =>
    obtain ⟨hkey, -⟩ := ite_ne_right_iff.mp h
    rw [show raisedBy (.sknp x) s = .keyIndexOutOfRange from if_pos hkey]
    exact skipOnKey_eq_fault false hkey
  all_goals exact absurd rfl h

/-! ## Everything an instruction can do -/

/-- What an instruction leaves is one of these states, each with the list of writers (R11, R13, R15, R17, R20, R25) that
permits the change. -/
inductive Effect (i : Instr) (s : State) : State → Prop where
  /-- the latch alone (R163) -/
  | fault (hraised : raisedBy i s ≠ .none) : Effect i s (s.writeFault (raisedBy i s))
  /-- SYS -/
  | nothing : Effect i s s
  /-- one destination -/
  | reg (x : Reg) (b : Byte) (hdest : i.isDestination x = true) : Effect i s (s.writeV x b)
  /-- a block of destinations -/
  | regs (vs : Vector Byte 16) (hkept : ∀ r, i.isDestination r = false → vs[r] = s.reg r) : Effect i s (s.writeVs vs)
  /-- the flag, then the destination (R110) -/
  | flagThenReg (c : Bool) (x : Reg) (b : Byte) (hflag : i.writesFlag = true) (hdest : i.isDestination x = true) :
      Effect i s (s.writeFlagThenV c x b)
  /-- DRW -/
  | draw (d : DisplayRows) (c : Bool) (hflag : i.writesFlag = true) (hdisplay : i.writesDisplay = true) :
      Effect i s ((s.writeDisplay d).writeV VF (flagByte c))
  /-- CLS -/
  | display (d : DisplayRows) (hdisplay : i.writesDisplay = true) : Effect i s (s.writeDisplay d)
  /-- the index register -/
  | index (w : Word) (hindex : i.writesI = true) : Effect i s (s.writeI w)
  /-- a jump, at most to 0xFFF + 0xFF (R16) -/
  | jump (w : Word) (hpc : i.movesPc = true) (hw : w.toNat ≤ 0x10FE) : Effect i s (s.writePc w)
  /-- a skip (R94 to R97, R150, R151) -/
  | skip (c : Bool) (hpc : i.movesPc = true) : Effect i s (s.skipIf c)
  /-- the key wait (R152) -/
  | rewind (hpc : i.movesPc = true) : Effect i s s.rewindPc
  /-- CALL (R93) -/
  | call (k : Fin 16) (n : Fin 17) (w : Word) (hpc : i.movesPc = true) (hstack : i.writesStack = true)
      (hw : w.toNat ≤ 0x10FE) : Effect i s (((s.writeStack k s.pc).writeSp n).writePc w)
  /-- RET (R91) -/
  | ret (k : Fin 16) (n : Fin 17) (hpc : i.movesPc = true) (hstack : i.writesStack = true) :
      Effect i s ((s.writeSp n).writePc (s.stackEntry k))
  /-- LD DT,Vx -/
  | delayTimer (x : Reg) (b : Byte) (hi : i = .ldDtVx x) : Effect i s (s.writeDT b)
  /-- LD ST,Vx -/
  | soundTimer (x : Reg) (b : Byte) (hi : i = .ldStVx x) : Effect i s (s.writeST b)
  /-- a store inside the address space (R134, R135) -/
  | store (bytes : List Byte) (hmemory : i.writesMemory = true) (hfits : s.I.toNat + bytes.length ≤ 4096) :
      Effect i s (s.writeMemory (s.memory.writeAll s.I.toNat bytes))

/-- The six instructions that write `VF`, where they raise no fault: the five of the ALU, then DRW (R11). -/
theorem exec_of_writesFlag {i : Instr} {s : State} (hflag : i.writesFlag = true) (hok : raisedBy i s = .none) :
    ∃ c, (∃ x b, i.isDestination x = true ∧ exec i s = .next (s.writeFlagThenV c x b)) ∨
      i.writesDisplay = true ∧ ∃ d, exec i s = .next ((s.writeDisplay d).writeV VF (flagByte c)) := by
  cases i
  case addVxVy x y => exact ⟨_, .inl ⟨x, _, beq_self_eq_true x, rfl⟩⟩
  case subVxVy x y => exact ⟨_, .inl ⟨x, _, beq_self_eq_true x, rfl⟩⟩
  case shrVx x => exact ⟨_, .inl ⟨x, _, beq_self_eq_true x, rfl⟩⟩
  case subnVxVy x y => exact ⟨_, .inl ⟨x, _, beq_self_eq_true x, rfl⟩⟩
  case shlVx x => exact ⟨_, .inl ⟨x, _, beq_self_eq_true x, rfl⟩⟩
  case drw x y n => exact ⟨_, .inr ⟨rfl, _, exec_drw n (raisedBy_drw.mp hok)⟩⟩
  all_goals exact absurd hflag Bool.false_ne_true

/-- LD Vx,[I] keeps every register above `x` (R136). -/
theorem loadRegs_of_not_isDestination {s : State} {x : Reg} {bytes : List Byte} (hlen : bytes.length = x.val + 1)
    (r : Reg) (hr : (Instr.ldVxMem x).isDestination r = false) : (loadRegs s.V 0 bytes)[r] = s.reg r := by
  have hlt : x.val < r.val := not_le.mp (of_decide_eq_false hr)
  exact (getElem_loadRegs s.V 0 bytes r.val r.isLt).trans (if_neg (by omega))

/-- The target of JP V0,addr, at most 0xFFF + 0xFF (R16, R98) -/
theorem indexedTarget_le (nnn : Addr12) (b : Byte) : (zextAddr nnn + zextByte b).toNat ≤ 0x10FE := by
  rw [BitVec.toNat_add, zextAddr_toNat, zextByte_toNat]
  omega

/-- Every instruction answers a next state, one of the listed effects. -/
theorem exec_effect (i : Instr) (s : State) : ∃ t, exec i s = .next t ∧ Effect i s t := by
  by_cases hok : raisedBy i s = .none
  case neg => exact ⟨_, exec_eq_fault hok, .fault hok⟩
  by_cases hflag : i.writesFlag = true
  case pos =>
    obtain ⟨c, ⟨x, b, hdest, heq⟩ | ⟨hdisplay, d, heq⟩⟩ := exec_of_writesFlag hflag hok
    · exact ⟨_, heq, .flagThenReg c x b hflag hdest⟩
    · exact ⟨_, heq, .draw d c hflag hdisplay⟩
  cases i
  case sys nnn => exact ⟨_, rfl, .nothing⟩
  case cls => exact ⟨_, rfl, .display _ rfl⟩
  case ret => exact ⟨_, exec_ret (raisedBy_ret.mp hok), .ret _ _ rfl rfl⟩
  case call nnn =>
    exact ⟨_, exec_call nnn (raisedBy_call.mp hok), .call _ _ _ rfl rfl (by rw [zextAddr_toNat]; omega)⟩
  case jp nnn => exact ⟨_, rfl, .jump _ rfl (by rw [zextAddr_toNat]; omega)⟩
  case jpV0 nnn => exact ⟨_, rfl, .jump _ rfl (indexedTarget_le nnn _)⟩
  case seVxKk x kk => exact ⟨_, rfl, .skip _ rfl⟩
  case sneVxKk x kk => exact ⟨_, rfl, .skip _ rfl⟩
  case seVxVy x y => exact ⟨_, rfl, .skip _ rfl⟩
  case sneVxVy x y => exact ⟨_, rfl, .skip _ rfl⟩
  case skp x => exact ⟨_, exec_skp (raisedBy_skp.mp hok), .skip _ rfl⟩
  case sknp x => exact ⟨_, exec_sknp (raisedBy_sknp.mp hok), .skip _ rfl⟩
  case ldVxK x =>
    rcases hkey : firstKeyDown s with _ | k
    · exact ⟨_, exec_ldVxK_of_none hkey, .rewind rfl⟩
    · exact ⟨_, exec_ldVxK_of_down hkey, .reg x _ (beq_self_eq_true x)⟩
  case ldVxKk x kk => exact ⟨_, rfl, .reg x _ (beq_self_eq_true x)⟩
  case addVxKk x kk => exact ⟨_, rfl, .reg x _ (beq_self_eq_true x)⟩
  case ldVxVy x y => exact ⟨_, rfl, .reg x _ (beq_self_eq_true x)⟩
  case orVxVy x y => exact ⟨_, rfl, .reg x _ (beq_self_eq_true x)⟩
  case andVxVy x y => exact ⟨_, rfl, .reg x _ (beq_self_eq_true x)⟩
  case xorVxVy x y => exact ⟨_, rfl, .reg x _ (beq_self_eq_true x)⟩
  case rndVxKk x kk => exact ⟨_, rfl, .reg x _ (beq_self_eq_true x)⟩
  case ldVxDt x => exact ⟨_, rfl, .reg x _ (beq_self_eq_true x)⟩
  case ldVxMem x =>
    exact ⟨_, exec_ldVxMem (raisedBy_ldVxMem.mp hok),
      .regs _ (loadRegs_of_not_isDestination (Memory.length_readAll _ _ _))⟩
  case ldI nnn => exact ⟨_, rfl, .index _ rfl⟩
  case addIVx x => exact ⟨_, rfl, .index _ rfl⟩
  case ldFVx x => exact ⟨_, rfl, .index _ rfl⟩
  case ldDtVx x => exact ⟨_, rfl, .delayTimer x _ rfl⟩
  case ldStVx x => exact ⟨_, rfl, .soundTimer x _ rfl⟩
  case ldBVx x =>
    have hfits := raisedBy_ldBVx.mp hok
    exact ⟨_, exec_ldBVx hfits, .store _ rfl hfits⟩
  case ldMemVx x =>
    have hfits := raisedBy_ldMemVx.mp hok
    exact ⟨_, exec_ldMemVx hfits, .store _ rfl (by rw [length_firstRegs]; exact hfits)⟩
  all_goals exact absurd rfl hflag

/-- What an instruction answered is one of the listed effects. -/
theorem effect_of_exec {i : Instr} {s t : State} (h : exec i s = .next t) : Effect i s t := by
  obtain ⟨u, hu, heffect⟩ := exec_effect i s
  obtain rfl : u = t := Host.Outcome.next.inj (hu.symm.trans h)
  exact heffect

/-! ## Which parts change -/

section Parts

variable {i : Instr} {s t : State}

theorem Effect.sameMemory (h : Effect i s t) (hi : i.writesMemory = false) : SameMemory s t := by
  cases h with
  | store bytes hmemory => exact absurd hmemory (ne_true_of_eq_false hi)
  | _ => exact fun _ => rfl

theorem Effect.sameDisplay (h : Effect i s t) (hi : i.writesDisplay = false) : SameDisplay s t := by
  cases h with
  | draw d c hflag hdisplay => exact absurd hdisplay (ne_true_of_eq_false hi)
  | display d hdisplay => exact absurd hdisplay (ne_true_of_eq_false hi)
  | _ => exact fun _ => rfl

theorem Effect.I_eq (h : Effect i s t) (hi : i.writesI = false) : t.I = s.I := by
  cases h with
  | index w hindex => exact absurd hindex (ne_true_of_eq_false hi)
  | _ => rfl

theorem Effect.sameStack (h : Effect i s t) (hi : i.writesStack = false) : SameStack s t := by
  cases h with
  | call k n w hpc hstack => exact absurd hstack (ne_true_of_eq_false hi)
  | ret k n hpc hstack => exact absurd hstack (ne_true_of_eq_false hi)
  | _ => exact ⟨rfl, fun _ => rfl⟩

theorem Effect.DT_eq (h : Effect i s t) (hi : ∀ x, i ≠ .ldDtVx x) : t.DT = s.DT := by
  cases h with
  | delayTimer x b hx => exact absurd hx (hi x)
  | _ => rfl

theorem Effect.ST_eq (h : Effect i s t) (hi : ∀ x, i ≠ .ldStVx x) : t.ST = s.ST := by
  cases h with
  | soundTimer x b hx => exact absurd hx (hi x)
  | _ => rfl

theorem Effect.pc_eq (h : Effect i s t) (hi : i.movesPc = false) : t.pc = s.pc := by
  cases h with
  | jump w hpc => exact absurd hpc (ne_true_of_eq_false hi)
  | skip c hpc => exact absurd hpc (ne_true_of_eq_false hi)
  | rewind hpc => exact absurd hpc (ne_true_of_eq_false hi)
  | call k n w hpc => exact absurd hpc (ne_true_of_eq_false hi)
  | ret k n hpc => exact absurd hpc (ne_true_of_eq_false hi)
  | _ => rfl

theorem Effect.sameHost (h : Effect i s t) : SameHost s t := by
  cases h <;> exact ⟨rfl, rfl, rfl, rfl, rfl, rfl⟩

theorem Effect.reg_eq (h : Effect i s t) {r : Reg} (hr : i.isDestination r = false)
    (hnoflag : ¬ (r = VF ∧ i.writesFlag = true)) : t.reg r = s.reg r := by
  have hne : ∀ x, i.isDestination x = true → r ≠ x := fun x hx hrx => absurd (hrx ▸ hx) (ne_true_of_eq_false hr)
  have hneVF : i.writesFlag = true → r ≠ VF := fun hflag hrVF => hnoflag ⟨hrVF, hflag⟩
  cases h with
  | reg x b hdest => rw [State.reg_writeV, if_neg (hne x hdest)]
  | regs vs hkept => exact hkept r hr
  | flagThenReg c x b hflag hdest => rw [State.writeFlagThenV_reg, if_neg (hne x hdest), if_neg (hneVF hflag)]
  | draw d c hflag => rw [State.reg_writeV, if_neg (hneVF hflag), State.reg_writeDisplay]
  | _ => rfl

/-- A flag-writing instruction that raises no fault and has another destination leaves a flag in `VF` (R12). -/
theorem reg_VF_of_writesFlag (hflag : i.writesFlag = true) (hok : raisedBy i s = .none) (hVF : i.isDestination VF = false)
    (h : exec i s = .next t) : ∃ c, t.reg VF = flagByte c := by
  obtain ⟨c, ⟨x, b, hdest, heq⟩ | ⟨-, d, heq⟩⟩ := exec_of_writesFlag hflag hok
  · have hne : VF ≠ x := fun hx => absurd (hx ▸ hdest) (ne_true_of_eq_false hVF)
    obtain rfl := Host.Outcome.next.inj (heq.symm.trans h)
    exact ⟨c, by rw [State.writeFlagThenV_reg, if_neg hne, if_pos rfl]⟩
  · obtain rfl := Host.Outcome.next.inj (heq.symm.trans h)
    exact ⟨c, by rw [State.reg_writeV, if_pos rfl]⟩

end Parts

theorem flagByte_eq_zero_or_one (c : Bool) : flagByte c = 0 ∨ flagByte c = 1 := by
  cases c
  · exact .inl rfl
  · exact .inr rfl

/-- Settles O46: each effect of an instruction is permitted by the list of its part's writers. -/
theorem eachPartHasOnlyItsWriters : Obligations.EachPartHasOnlyItsWriters := by
  intro i s t h
  have heffect := effect_of_exec h
  exact ⟨heffect.sameMemory, heffect.sameDisplay, heffect.I_eq, heffect.sameStack, heffect.DT_eq, heffect.ST_eq,
    heffect.pc_eq, heffect.sameHost⟩

/-- Settles O26: a register changes as a destination, or as the flag of the six instructions that write one. -/
theorem onlySixInstructionsWriteTheFlag : Obligations.OnlySixInstructionsWriteTheFlag := by
  intro i s t h
  refine ⟨fun r => (effect_of_exec h).reg_eq, fun hflag hok hVF => ?_⟩
  obtain ⟨c, hc⟩ := reg_VF_of_writesFlag hflag hok hVF h
  rw [hc]
  exact flagByte_eq_zero_or_one c

/-! ## The invariant (R16 to R18, R184) -/

section Invariant

variable {s : State}

/-! Writes the invariant does not speak of -/
@[simp] theorem State.inv_writeV {r : Reg} {b : Byte} : (s.writeV r b).Inv ↔ s.Inv := .rfl
@[simp] theorem State.inv_writeVs {vs : Vector Byte 16} : (s.writeVs vs).Inv ↔ s.Inv := .rfl
@[simp] theorem State.inv_writeFlagThenV {c : Bool} {x : Reg} {b : Byte} : (s.writeFlagThenV c x b).Inv ↔ s.Inv := .rfl
@[simp] theorem State.inv_writeI {w : Word} : (s.writeI w).Inv ↔ s.Inv := .rfl
@[simp] theorem State.inv_writeSp {n : Fin 17} : (s.writeSp n).Inv ↔ s.Inv := .rfl
@[simp] theorem State.inv_writeDisplay {d : DisplayRows} : (s.writeDisplay d).Inv ↔ s.Inv := .rfl
@[simp] theorem State.inv_writeDT {b : Byte} : (s.writeDT b).Inv ↔ s.Inv := .rfl
@[simp] theorem State.inv_writeST {b : Byte} : (s.writeST b).Inv ↔ s.Inv := .rfl
@[simp] theorem State.inv_sampleInputs {keys : BitVec 16} {rnd : Byte} : (s.sampleInputs keys rnd).Inv ↔ s.Inv := .rfl
@[simp] theorem State.inv_writeScript {ops : List HostOp} : (s.writeScript ops).Inv ↔ s.Inv := .rfl
@[simp] theorem State.inv_writeDraws {n : Nat} : (s.writeDraws n).Inv ↔ s.Inv := .rfl
@[simp] theorem State.inv_writeLoadResult {r : Option LoadResult} : (s.writeLoadResult r).Inv ↔ s.Inv := .rfl

/-! Writes that keep it under a condition -/

theorem State.Inv.writePc (h : s.Inv) {w : Word} (hw : w.toNat ≤ 0x10FE) : (s.writePc w).Inv := by
  obtain ⟨hmemory, -, hstack, hload⟩ := h
  exact ⟨hmemory, hw, hstack, hload⟩

theorem State.Inv.writeStack (h : s.Inv) (k : Fin 16) {w : Word} (hw : w.toNat ≤ 0x1000) : (s.writeStack k w).Inv := by
  obtain ⟨hmemory, hpc, hstack, hload⟩ := h
  refine ⟨hmemory, hpc, fun j => ?_, hload⟩
  rw [State.stackEntry_writeStack]
  split
  · exact hw
  · exact hstack j

theorem State.Inv.writeAll (h : s.Inv) {base : Nat} {bytes : List Byte} (hfits : base + bytes.length ≤ 4096) :
    (s.writeMemory (s.memory.writeAll base bytes)).Inv := by
  obtain ⟨hmemory, hpc, hstack, hload⟩ := h
  exact ⟨Memory.wf_writeAll hmemory hfits, hpc, hstack, hload⟩

theorem State.Inv.writeFault (h : s.Inv) (c : FaultCode) (hnoload : s.loadPermitted = false) : (s.writeFault c).Inv := by
  obtain ⟨hmemory, hpc, hstack, -⟩ := h
  exact ⟨hmemory, hpc, hstack, fun _ => hnoload⟩

theorem State.Inv.forbidLoad (h : s.Inv) : (s.writeLoadPermitted false).Inv := by
  obtain ⟨hmemory, hpc, hstack, -⟩ := h
  exact ⟨hmemory, hpc, hstack, fun _ => rfl⟩

/-- Each effect of an instruction keeps the invariant, where `pc` is one a fetch leaves and no `Load` is permitted. -/
theorem Effect.inv {i : Instr} {t : State} (h : Effect i s t) (hinv : s.Inv) (hnoload : s.loadPermitted = false)
    (hlow : 2 ≤ s.pc.toNat) (hhigh : s.pc.toNat ≤ 0x1000) : t.Inv := by
  have ⟨_, _, hstack, _⟩ := hinv
  cases h with
  | fault => exact hinv.writeFault _ hnoload
  | jump w hpc hw => exact hinv.writePc hw
  | skip c => exact hinv.writePc (by split <;> bv_omega)
  | rewind => exact hinv.writePc (by bv_omega)
  | call k n w hpc hwrites hw =>
    exact State.Inv.writePc (State.inv_writeSp.mpr (hinv.writeStack k hhigh)) hw
  | ret k n => exact State.Inv.writePc (State.inv_writeSp.mpr hinv) (by have := hstack k; omega)
  | store bytes hmemory hfits => exact hinv.writeAll hfits
  | _ => simpa using hinv

/-! The host's operations -/

theorem reset_inv : State.reset.Inv :=
  ⟨rfl, by decide, fun k => by simp [State.stackEntry, State.reset], fun h => absurd rfl h⟩

theorem hostReset_inv : (hostReset s).Inv := State.inv_writeDraws.mpr (State.inv_writeScript.mpr reset_inv)

theorem hostTick_inv (hinv : s.Inv) : (hostTick s).Inv := State.inv_writeST.mpr (State.inv_writeDT.mpr hinv)

theorem loadProgram_inv (bytes : List Byte) (hinv : s.Inv) : (loadProgram bytes s).1.Inv := by
  rw [loadProgram]
  split
  · exact hinv
  · exact hinv.writeAll (by simp only [Config.loadBase, Config.maxProgram] at *; omega)

theorem hostLoad_inv {bytes : List Byte} {t : State} (hinv : s.Inv) (h : hostLoad bytes s = .next t) : t.Inv := by
  rw [hostLoad] at h
  split at h
  · obtain rfl := Host.Outcome.next.inj h
    exact State.inv_writeLoadResult.mpr (loadProgram_inv bytes hinv).forbidLoad
  · exact nomatch h

theorem hostStep_inv {keys : BitVec 16} {rnd : Byte} {t : State} (hinv : s.Inv) (h : hostStep keys rnd s = .next t) :
    t.Inv := by
  have hstart : ((s.sampleInputs keys rnd).writeLoadPermitted false).Inv := (State.inv_sampleInputs.mpr hinv).forbidLoad
  rcases hostStep_cases keys rnd s with ⟨-, heq⟩ | ⟨-, -, heq⟩ | ⟨-, hpc, hrun⟩
  · obtain rfl := Host.Outcome.next.inj (heq.symm.trans h)
    exact hinv
  · obtain rfl := Host.Outcome.next.inj (heq.symm.trans h)
    exact hstart.writeFault _ rfl
  · have hadvanced : ((s.sampleInputs keys rnd).writeLoadPermitted false).advancePc.pc.toNat = s.pc.toNat + 2 := by
      simp only [State.advancePc_pc, State.writeLoadPermitted_pc, State.sampleInputs_pc]
      bv_omega
    have hinv' : ((s.sampleInputs keys rnd).writeLoadPermitted false).advancePc.Inv :=
      hstart.writePc (by rw [← State.advancePc_pc, hadvanced]; omega)
    rcases hrun with ⟨u, -, heq⟩ | ⟨i, -, heq⟩
    · obtain rfl := Host.Outcome.next.inj (heq.symm.trans h)
      exact hinv'
    · exact (effect_of_exec (heq.symm.trans h)).inv hinv' rfl (by omega) (by omega)

theorem perform_inv {op : HostOp} {t : State} (hinv : s.Inv) (h : perform op s = .next t) : t.Inv := by
  cases op with
  | reset => obtain rfl := Host.Outcome.next.inj h; exact hostReset_inv
  | load bytes => exact hostLoad_inv hinv h
  | step keys rnd => exact hostStep_inv hinv h
  | tick => obtain rfl := Host.Outcome.next.inj h; exact hostTick_inv hinv

theorem nextOp_inv (hinv : s.Inv) : (nextOp s).2.Inv := by
  rw [nextOp_state]
  exact State.inv_writeDraws.mpr (State.inv_writeScript.mpr hinv)

end Invariant

/-- Settles O16: memory lists no cell, `pc` is 0x200, every stack entry is 0 and nothing is latched. -/
theorem resetMeetsTheInvariant : Obligations.ResetMeetsTheInvariant := reset_inv

/-- Settles O15: choosing the operation keeps the invariant, and so does each of the four operations. -/
theorem everyStepKeepsTheInvariant : Obligations.EveryStepKeepsTheInvariant :=
  fun _ _ hinv h => perform_inv (nextOp_inv hinv) h

/-! ## What the inputs reach (R19, R30) -/

theorem mapNext_congr {f g : State → State} {r : Result} (h : ∀ t, r = .next t → f t = g t) :
    mapNext f r = mapNext g r := by
  cases r with
  | next t => exact congrArg Host.Outcome.next (h t rfl)
  | fault _ => rfl
  | refused _ => rfl

/-- An instruction's answers with the inputs sampled before it and after it agree. -/
theorem exec_sampleInputs_of_next {i : Instr} {s t : State} {keys : BitVec 16} {rnd : Byte} (h : exec i s = .next t)
    (hsampled : exec i (s.sampleInputs keys rnd) = .next (t.sampleInputs keys rnd)) :
    exec i (s.sampleInputs keys rnd) = mapNext (·.sampleInputs keys rnd) (exec i s) := by
  rw [hsampled, h, mapNext]

/-- Where the inputs an instruction reads are the ones sampled already, sampling before it and after it is the same. -/
theorem exec_sampleInputs (i : Instr) (s : State) (keys : BitVec 16) (rnd : Byte)
    (hkeys : i.readsKeys = true → keys = s.keys) (hrnd : i.readsRnd = true → rnd = s.rnd) :
    exec i (s.sampleInputs keys rnd) = mapNext (·.sampleInputs keys rnd) (exec i s) := by
  by_cases hok : raisedBy i s = .none
  case neg =>
    have hraised : raisedBy i (s.sampleInputs keys rnd) = raisedBy i s := by cases i <;> rfl
    refine exec_sampleInputs_of_next (exec_eq_fault hok) ?_
    rw [exec_eq_fault (hraised ▸ hok), hraised]; rfl
  cases i
  case ret =>
    have hsp := raisedBy_ret.mp hok
    exact exec_sampleInputs_of_next (exec_ret hsp) (exec_ret (s := s.sampleInputs keys rnd) hsp)
  case call nnn =>
    have hsp := raisedBy_call.mp hok
    exact exec_sampleInputs_of_next (exec_call nnn hsp) (exec_call (s := s.sampleInputs keys rnd) nnn hsp)
  case drw x y n =>
    have hfits := raisedBy_drw.mp hok
    exact exec_sampleInputs_of_next (exec_drw n hfits) (exec_drw (s := s.sampleInputs keys rnd) n hfits)
  case ldBVx x =>
    have hfits := raisedBy_ldBVx.mp hok
    exact exec_sampleInputs_of_next (exec_ldBVx hfits) (exec_ldBVx (s := s.sampleInputs keys rnd) hfits)
  case ldMemVx x =>
    have hfits := raisedBy_ldMemVx.mp hok
    exact exec_sampleInputs_of_next (exec_ldMemVx hfits) (exec_ldMemVx (s := s.sampleInputs keys rnd) hfits)
  case ldVxMem x =>
    have hfits := raisedBy_ldVxMem.mp hok
    exact exec_sampleInputs_of_next (exec_ldVxMem hfits) (exec_ldVxMem (s := s.sampleInputs keys rnd) hfits)
  case skp x =>
    obtain rfl := hkeys rfl
    have hkey := raisedBy_skp.mp hok
    exact exec_sampleInputs_of_next (exec_skp hkey) (exec_skp (s := s.sampleInputs s.keys rnd) hkey)
  case sknp x =>
    obtain rfl := hkeys rfl
    have hkey := raisedBy_sknp.mp hok
    exact exec_sampleInputs_of_next (exec_sknp hkey) (exec_sknp (s := s.sampleInputs s.keys rnd) hkey)
  case ldVxK x =>
    obtain rfl := hkeys rfl
    rcases hdown : firstKeyDown s with _ | k
    · exact exec_sampleInputs_of_next (exec_ldVxK_of_none hdown)
        (exec_ldVxK_of_none (s := s.sampleInputs s.keys rnd) hdown)
    · exact exec_sampleInputs_of_next (exec_ldVxK_of_down hdown)
        (exec_ldVxK_of_down (s := s.sampleInputs s.keys rnd) hdown)
  case rndVxKk x kk =>
    obtain rfl := hrnd rfl
    rfl
  all_goals rfl

/-- Settles O47: an input that is not read is only carried along, and no instruction writes the other one. -/
theorem inputsReachOnlyTheirReaders : Obligations.InputsReachOnlyTheirReaders := by
  intro i s keys rnd
  constructor
  · intro hi
    rw [exec_sampleInputs i s keys s.rnd (fun h => absurd h (ne_true_of_eq_false hi)) (fun _ => rfl)]
    refine mapNext_congr fun t ht => ?_
    obtain ⟨-, hrnd, -⟩ := (effect_of_exec ht).sameHost
    rw [hrnd]
  · intro hi
    rw [exec_sampleInputs i s s.keys rnd (fun _ => rfl) (fun h => absurd h (ne_true_of_eq_false hi))]
    refine mapNext_congr fun t ht => ?_
    obtain ⟨hkeys, -⟩ := (effect_of_exec ht).sameHost
    rw [hkeys]

end Sys2Proof.Machine
end

section
/-! SUPPORT. The proofs of the memory family (spec/20_memory.md): the canonical form is unique, the fetch is big-endian, and a
word stored at `pc` is fetched next. -/

namespace Sys2Proof.Machine

/-! ## The canonical form is unique (log 25) -/

theorem Memory.read_cons_self (a : Nat) (v : Byte) (m : Memory) : Memory.read ((a, v) :: m) a = v := if_pos rfl

theorem Memory.read_cons_of_ne {a b : Nat} (h : a ≠ b) (v : Byte) (m : Memory) :
    Memory.read ((a, v) :: m) b = m.read b := if_neg h

/-- A listed byte is no reset byte, so a canonical memory that reads as after reset lists none. -/
theorem Memory.eq_nil_of_read_eq_resetByte {m : Memory} (hm : m.wf = true) (h : ∀ a, m.read a = resetByte a) :
    m = [] := by
  cases m with
  | nil => rfl
  | cons c m =>
    obtain ⟨a, v⟩ := c
    obtain ⟨-, hv, -⟩ := Memory.wf_cons.mp hm
    exact absurd ((Memory.read_cons_self a v m).symm.trans (h a)) hv

/-- The first listed address is the least one that does not read as after reset. -/
theorem Memory.head_le_of_read_ne_resetByte {a b : Nat} {v : Byte} {m : Memory} (hm : Memory.wf ((a, v) :: m) = true)
    (h : Memory.read ((a, v) :: m) b ≠ resetByte b) : a ≤ b := by
  obtain ⟨-, -, hlt, -⟩ := Memory.wf_cons.mp hm
  by_contra hab
  refine h (Memory.read_of_lt fun c hc => ?_)
  rcases List.mem_cons.mp hc with rfl | hc
  · exact Nat.lt_of_not_le hab
  · exact (Nat.lt_of_not_le hab).trans (hlt c hc)

/-- Of two canonical memories that read alike, the second lists nothing below the first's least listed address. -/
theorem Memory.head_le_head {a b : Nat} {v u : Byte} {m m' : Memory} (hm : Memory.wf ((a, v) :: m) = true)
    (hm' : Memory.wf ((b, u) :: m') = true) (h : ∀ c, Memory.read ((a, v) :: m) c = Memory.read ((b, u) :: m') c) :
    a ≤ b := by
  obtain ⟨-, hu, -⟩ := Memory.wf_cons.mp hm'
  apply Memory.head_le_of_read_ne_resetByte hm
  rwa [h, Memory.read_cons_self]

/-- The rests of two memories that read alike and start with the same cell read alike: neither rest lists the first address. -/
theorem Memory.read_tail_eq {a : Nat} {v : Byte} {m m' : Memory} (hlt : ∀ c ∈ m, a < c.1) (hlt' : ∀ c ∈ m', a < c.1)
    (h : ∀ b, Memory.read ((a, v) :: m) b = Memory.read ((a, v) :: m') b) (b : Nat) :
    Memory.read m b = Memory.read m' b := by
  by_cases hb : a = b
  · subst hb
    rw [Memory.read_of_lt hlt, Memory.read_of_lt hlt']
  · rw [← Memory.read_cons_of_ne hb v m, h, Memory.read_cons_of_ne hb]

/-- Settles O17, by induction on the list: memories that read alike start with the same cell, and their rests read alike. -/
theorem memoriesThatReadAlikeAreEqual : Obligations.MemoriesThatReadAlikeAreEqual := by
  intro m
  induction m with
  | nil => exact fun m' _ hm' h => (Memory.eq_nil_of_read_eq_resetByte hm' fun a => (h a).symm).symm
  | cons c m ih =>
    intro m' hm hm' h
    cases m' with
    | nil => exact Memory.eq_nil_of_read_eq_resetByte hm h
    | cons c' m' =>
      obtain ⟨a, v⟩ := c
      obtain ⟨b, u⟩ := c'
      obtain rfl : a = b :=
        Nat.le_antisymm (Memory.head_le_head hm hm' h) (Memory.head_le_head hm' hm fun c => (h c).symm)
      obtain rfl : v = u := by simpa only [Memory.read_cons_self] using h a
      obtain ⟨-, -, hlt, hwf⟩ := Memory.wf_cons.mp hm
      obtain ⟨-, -, hlt', hwf'⟩ := Memory.wf_cons.mp hm'
      rw [ih m' hwf hwf' (Memory.read_tail_eq hlt hlt' h)]

/-! ## The fetch (R42, R44, R52) -/

/-- Settles O7: the fetch joins the two bytes, and the value of a joined word is its first byte times 256 plus its second. -/
theorem fetchReadsBigEndianAtPc : Obligations.FetchReadsBigEndianAtPc :=
  fun _ hpc => ⟨_, fetchWord_eq_some.mpr ⟨hpc, rfl⟩, wordOfBytes_toNat _ _⟩

/-- After a completed LD [I],Vx the byte at I + k is V[k], for every k up to x (R135). -/
theorem byteAt_writeAll_firstRegs {s : State} {x : Reg} (hwf : s.memory.wf = true)
    (hfits : s.I.toNat + (x.val + 1) ≤ 4096) {k : Nat} (hk : k ≤ x.val) :
    (s.writeMemory (s.memory.writeAll s.I.toNat (firstRegs s x))).byteAt (s.I.toNat + k) = s.reg ⟨k, by omega⟩ := by
  have hlen : (firstRegs s x).length = x.val + 1 := length_firstRegs s x
  have hread := Memory.read_writeAll hwf (bytes := firstRegs s x) (by rw [hlen]; exact hfits) (s.I.toNat + k)
  rw [if_pos (by omega), Nat.add_sub_cancel_left, getD_firstRegs s x hk] at hread
  exact hread

/-- Settles O39: the store completes with `pc` unchanged, and the two bytes at `pc` are then V0 and V1. -/
theorem storedWordIsFetchedNext : Obligations.StoredWordIsFetchedNext := by
  intro s x hwf hI hx hrange
  have hfits : s.I.toNat + (x.val + 1) ≤ 4096 := by omega
  have hpc : s.pc.toNat ≤ 0xFFE := by rw [← hI]; omega
  obtain ⟨w, hfetch, hw⟩ :=
    fetchReadsBigEndianAtPc (s.writeMemory (s.memory.writeAll s.I.toNat (firstRegs s x))) hpc
  refine ⟨_, w, exec_ldMemVx hfits, hfetch, ?_⟩
  have hV0 := byteAt_writeAll_firstRegs hwf hfits (Nat.zero_le x.val)
  have hV1 := byteAt_writeAll_firstRegs hwf hfits hx
  rw [Nat.add_zero] at hV0
  rw [hw, State.writeMemory_pc, ← hI, hV0, hV1]
  rfl

end Sys2Proof.Machine
end

section
/-! SUPPORT. The proofs of the encoding family (spec/30_encoding.md): the words of each row of R65 and of R71, said once, and
from them that decoder, encoder and opcode map agree. -/

namespace Sys2Proof

/-! ## The fields of a word, as numbers and put together again (R61) -/

section Fields

variable {w : Word}

theorem formatNNN_toNat (op : BitVec 4) (nnn : Addr12) : (formatNNN op nnn).toNat = op.toNat * 4096 + nnn.toNat := by
  rw [formatNNN, BitVec.toNat_append, ← Nat.shiftLeft_add_eq_or_of_lt nnn.isLt, Nat.shiftLeft_eq]

theorem toNat_div_4096 (w : Word) : w.toNat / 4096 = (opField w).toNat := by
  rw [opField, BitVec.extractLsb'_toNat, Nat.shiftRight_eq_div_pow, Nat.mod_eq_of_lt (by omega)]

theorem toNat_mod_256 (w : Word) : w.toNat % 256 = (kkField w).toNat := by simp [kkField]

theorem toNat_mod_16 (w : Word) : w.toNat % 16 = (nField w).val := by simp [nField]

/-- A word is its opcode nibble in front of its `nnn` field. -/
theorem formatNNN_fields {op : BitVec 4} (hop : (opField w).toNat = op.toNat) : formatNNN op (nnnField w) = w := by
  apply BitVec.eq_of_toNat_eq
  rw [formatNNN_toNat, ← hop, ← toNat_div_4096, nnnField, BitVec.extractLsb'_toNat, Nat.shiftRight_zero]
  omega

theorem xField_append_kkField (w : Word) : BitVec.ofFin (w := 4) (xField w) ++ kkField w = nnnField w :=
  BitVec.extractLsb'_append_extractLsb'_eq_extractLsb' rfl

theorem yField_append_nField (w : Word) :
    BitVec.ofFin (w := 4) (yField w) ++ BitVec.ofFin (w := 4) (nField w) = kkField w :=
  BitVec.extractLsb'_append_extractLsb'_eq_extractLsb' rfl

theorem formatXKK_fields {op : BitVec 4} (hop : (opField w).toNat = op.toNat) :
    formatXKK op (xField w) (kkField w) = w := by
  rw [formatXKK, xField_append_kkField]
  exact formatNNN_fields hop

theorem formatXYN_fields {op : BitVec 4} (hop : (opField w).toNat = op.toNat) :
    formatXYN op (xField w) (yField w) (nField w) = w := by
  rw [formatXYN, yField_append_nField]
  exact formatXKK_fields hop

theorem formatXKK_of_kkField {op : BitVec 4} {kk : Byte} (hop : (opField w).toNat = op.toNat)
    (hkk : (kkField w).toNat = kk.toNat) : formatXKK op (xField w) kk = w := by
  rw [← BitVec.eq_of_toNat_eq hkk, formatXKK_fields hop]

theorem formatXYN_of_nField {op : BitVec 4} {n : Fin 16} (hop : (opField w).toNat = op.toNat)
    (hn : (nField w).val = n.val) : formatXYN op (xField w) (yField w) n = w := by
  rw [← Fin.ext hn, formatXYN_fields hop]

end Fields

/-- SYS is well formed where its word is neither that of CLS nor that of RET (R66). -/
theorem wellFormed_sys_iff {nnn : Addr12} :
    (Instr.sys nnn).wellFormed = true ↔ formatNNN 0x0#4 nnn ≠ 0x00E0#16 ∧ formatNNN 0x0#4 nnn ≠ 0x00EE#16 := by
  have hinj (a : Addr12) : formatNNN 0x0#4 nnn = formatNNN 0x0#4 a ↔ nnn = a :=
    ⟨fun h => by simpa using congrArg nnnField h, fun h => by rw [h]⟩
  rw [Instr.wellFormed, Bool.and_eq_true, bne_iff_ne, bne_iff_ne]
  exact and_congr (hinj 0x0E0#12).not.symm (hinj 0x0EE#12).not.symm

/-! ## What a mask leaves of a word -/

/-- A mask that keeps the opcode nibble works on the other three nibbles one by one. -/
theorem formatXYN_and (op : BitVec 4) (x y : Reg) (n : Fin 16) (a b c : BitVec 4) :
    formatXYN op x y n &&& formatNNN 0xF#4 (a ++ (b ++ c)) =
      formatNNN op ((BitVec.ofFin (w := 4) x &&& a) ++
        ((BitVec.ofFin (w := 4) y &&& b) ++ (BitVec.ofFin (w := 4) n &&& c))) := by
  have h := formatNNN_and op 0xF#4
    (BitVec.ofFin (w := 4) x ++ (BitVec.ofFin (w := 4) y ++ BitVec.ofFin (w := 4) n)) (a ++ (b ++ c))
  rwa [and_ones4, BitVec.and_append, BitVec.and_append] at h

theorem formatXYN_and_FFF0 (op : BitVec 4) (x y : Reg) (n : Fin 16) :
    formatXYN op x y n &&& 0xFFF0#16 = formatXYN op x y 0 := by
  have h := formatXYN_and op x y n 0xF#4 0xF#4 0#4
  rwa [and_ones4, and_ones4, BitVec.and_zero] at h

theorem formatXYN_and_FF0F (op : BitVec 4) (x y : Reg) (n : Fin 16) :
    formatXYN op x y n &&& 0xFF0F#16 = formatXYN op x 0 n := by
  have h := formatXYN_and op x y n 0xF#4 0#4 0xF#4
  rwa [and_ones4, and_ones4, BitVec.and_zero] at h

/-! ## The words of every row of R65, and the words of R71 -/

/-- A word and what it stands for. For a row of R65 the word has the row's bits, an ignored nibble (R67, R68) at any value,
and the answer is the row's instruction with the word's operands; the last three constructors are the words of R71 in
families 8, E and F. `decodes_decodeWord` ties it to the decoder. -/
inductive Decodes : Word → Except Undefined Instr → Prop where
  | cls : Decodes 0x00E0#16 (.ok .cls)
  | ret : Decodes 0x00EE#16 (.ok .ret)
  | sys (nnn : Addr12) (hwf : (Instr.sys nnn).wellFormed = true) : Decodes (formatNNN 0x0#4 nnn) (.ok (.sys nnn))
  | jp (nnn : Addr12) : Decodes (formatNNN 0x1#4 nnn) (.ok (.jp nnn))
  | call (nnn : Addr12) : Decodes (formatNNN 0x2#4 nnn) (.ok (.call nnn))
  | seVxKk (x : Reg) (kk : Byte) : Decodes (formatXKK 0x3#4 x kk) (.ok (.seVxKk x kk))
  | sneVxKk (x : Reg) (kk : Byte) : Decodes (formatXKK 0x4#4 x kk) (.ok (.sneVxKk x kk))
  | seVxVy (x y : Reg) (ignored : Fin 16) : Decodes (formatXYN 0x5#4 x y ignored) (.ok (.seVxVy x y))
  | ldVxKk (x : Reg) (kk : Byte) : Decodes (formatXKK 0x6#4 x kk) (.ok (.ldVxKk x kk))
  | addVxKk (x : Reg) (kk : Byte) : Decodes (formatXKK 0x7#4 x kk) (.ok (.addVxKk x kk))
  | ldVxVy (x y : Reg) : Decodes (formatXYN 0x8#4 x y 0x0) (.ok (.ldVxVy x y))
  | orVxVy (x y : Reg) : Decodes (formatXYN 0x8#4 x y 0x1) (.ok (.orVxVy x y))
  | andVxVy (x y : Reg) : Decodes (formatXYN 0x8#4 x y 0x2) (.ok (.andVxVy x y))
  | xorVxVy (x y : Reg) : Decodes (formatXYN 0x8#4 x y 0x3) (.ok (.xorVxVy x y))
  | addVxVy (x y : Reg) : Decodes (formatXYN 0x8#4 x y 0x4) (.ok (.addVxVy x y))
  | subVxVy (x y : Reg) : Decodes (formatXYN 0x8#4 x y 0x5) (.ok (.subVxVy x y))
  | shrVx (x ignored : Reg) : Decodes (formatXYN 0x8#4 x ignored 0x6) (.ok (.shrVx x))
  | subnVxVy (x y : Reg) : Decodes (formatXYN 0x8#4 x y 0x7) (.ok (.subnVxVy x y))
  | shlVx (x ignored : Reg) : Decodes (formatXYN 0x8#4 x ignored 0xE) (.ok (.shlVx x))
  | sneVxVy (x y : Reg) (ignored : Fin 16) : Decodes (formatXYN 0x9#4 x y ignored) (.ok (.sneVxVy x y))
  | ldI (nnn : Addr12) : Decodes (formatNNN 0xA#4 nnn) (.ok (.ldI nnn))
  | jpV0 (nnn : Addr12) : Decodes (formatNNN 0xB#4 nnn) (.ok (.jpV0 nnn))
  | rndVxKk (x : Reg) (kk : Byte) : Decodes (formatXKK 0xC#4 x kk) (.ok (.rndVxKk x kk))
  | drw (x y : Reg) (n : Fin 16) : Decodes (formatXYN 0xD#4 x y n) (.ok (.drw x y n))
  | skp (x : Reg) : Decodes (formatXKK 0xE#4 x 0x9E#8) (.ok (.skp x))
  | sknp (x : Reg) : Decodes (formatXKK 0xE#4 x 0xA1#8) (.ok (.sknp x))
  | ldVxDt (x : Reg) : Decodes (formatXKK 0xF#4 x 0x07#8) (.ok (.ldVxDt x))
  | ldVxK (x : Reg) : Decodes (formatXKK 0xF#4 x 0x0A#8) (.ok (.ldVxK x))
  | ldDtVx (x : Reg) : Decodes (formatXKK 0xF#4 x 0x15#8) (.ok (.ldDtVx x))
  | ldStVx (x : Reg) : Decodes (formatXKK 0xF#4 x 0x18#8) (.ok (.ldStVx x))
  | addIVx (x : Reg) : Decodes (formatXKK 0xF#4 x 0x1E#8) (.ok (.addIVx x))
  | ldFVx (x : Reg) : Decodes (formatXKK 0xF#4 x 0x29#8) (.ok (.ldFVx x))
  | ldBVx (x : Reg) : Decodes (formatXKK 0xF#4 x 0x33#8) (.ok (.ldBVx x))
  | ldMemVx (x : Reg) : Decodes (formatXKK 0xF#4 x 0x55#8) (.ok (.ldMemVx x))
  | ldVxMem (x : Reg) : Decodes (formatXKK 0xF#4 x 0x65#8) (.ok (.ldVxMem x))
  | undefined8 (x y : Reg) (n : Fin 16) (hn : n.val ∉ [0x0, 0x1, 0x2, 0x3, 0x4, 0x5, 0x6, 0x7, 0xE]) :
      Decodes (formatXYN 0x8#4 x y n) (.error (.family8 n))
  | undefinedE (x : Reg) (kk : Byte) (hkk : kk.toNat ∉ [0x9E, 0xA1]) :
      Decodes (formatXKK 0xE#4 x kk) (.error (.familyE kk))
  | undefinedF (x : Reg) (kk : Byte) (hkk : kk.toNat ∉ [0x07, 0x0A, 0x15, 0x18, 0x1E, 0x29, 0x33, 0x55, 0x65]) :
      Decodes (formatXKK 0xF#4 x kk) (.error (.familyF kk))

/-- A constructor of `Decodes`, whose word is a format applied to operands, used for a word given by its fields -/
theorem Decodes.of_eq {v w : Word} {r : Except Undefined Instr} (h : Decodes v r) (hw : v = w) : Decodes w r := hw ▸ h

/-! ## The decoder answers what its word is a word of (R64, R66 to R71) -/

section Families

variable {w : Word}

theorem decodes_family0 (hop : (opField w).toNat = 0x0) : Decodes w (.ok (decodeFamily0 w)) := by
  have hw : formatNNN 0x0#4 (nnnField w) = w := formatNNN_fields hop
  unfold decodeFamily0
  split_ifs with hcls hret
  · exact hcls ▸ .cls
  · exact hret ▸ .ret
  · exact (Decodes.sys _ (wellFormed_sys_iff.mpr (hw.symm ▸ ⟨hcls, hret⟩))).of_eq hw

theorem decodes_family8 (hop : (opField w).toNat = 0x8) : Decodes w (decodeFamily8 w) := by
  unfold decodeFamily8
  split
  next hn => exact (Decodes.ldVxVy _ _).of_eq (formatXYN_of_nField hop hn)
  next hn => exact (Decodes.orVxVy _ _).of_eq (formatXYN_of_nField hop hn)
  next hn => exact (Decodes.andVxVy _ _).of_eq (formatXYN_of_nField hop hn)
  next hn => exact (Decodes.xorVxVy _ _).of_eq (formatXYN_of_nField hop hn)
  next hn => exact (Decodes.addVxVy _ _).of_eq (formatXYN_of_nField hop hn)
  next hn => exact (Decodes.subVxVy _ _).of_eq (formatXYN_of_nField hop hn)
  next hn => exact (Decodes.shrVx _ _).of_eq (formatXYN_of_nField hop hn)
  next hn => exact (Decodes.subnVxVy _ _).of_eq (formatXYN_of_nField hop hn)
  next hn => exact (Decodes.shlVx _ _).of_eq (formatXYN_of_nField hop hn)
  next =>
    refine (Decodes.undefined8 _ _ _ ?_).of_eq (formatXYN_fields hop)
    simp only [List.mem_cons, List.not_mem_nil, or_false]
    grind

theorem decodes_familyE (hop : (opField w).toNat = 0xE) : Decodes w (decodeFamilyE w) := by
  unfold decodeFamilyE
  split
  next hkk => exact (Decodes.skp _).of_eq (formatXKK_of_kkField hop hkk)
  next hkk => exact (Decodes.sknp _).of_eq (formatXKK_of_kkField hop hkk)
  next => exact (Decodes.undefinedE _ _ (by grind)).of_eq (formatXKK_fields hop)

theorem decodes_familyF (hop : (opField w).toNat = 0xF) : Decodes w (decodeFamilyF w) := by
  unfold decodeFamilyF
  split
  next hkk => exact (Decodes.ldVxDt _).of_eq (formatXKK_of_kkField hop hkk)
  next hkk => exact (Decodes.ldVxK _).of_eq (formatXKK_of_kkField hop hkk)
  next hkk => exact (Decodes.ldDtVx _).of_eq (formatXKK_of_kkField hop hkk)
  next hkk => exact (Decodes.ldStVx _).of_eq (formatXKK_of_kkField hop hkk)
  next hkk => exact (Decodes.addIVx _).of_eq (formatXKK_of_kkField hop hkk)
  next hkk => exact (Decodes.ldFVx _).of_eq (formatXKK_of_kkField hop hkk)
  next hkk => exact (Decodes.ldBVx _).of_eq (formatXKK_of_kkField hop hkk)
  next hkk => exact (Decodes.ldMemVx _).of_eq (formatXKK_of_kkField hop hkk)
  next hkk => exact (Decodes.ldVxMem _).of_eq (formatXKK_of_kkField hop hkk)
  next =>
    refine (Decodes.undefinedF _ _ ?_).of_eq (formatXKK_fields hop)
    simp only [List.mem_cons, List.not_mem_nil, or_false]
    grind

/-- The decoder's answer is one the word has by R65 or R71. -/
theorem decodes_decodeWord (w : Word) : Decodes w (decodeWord w) := by
  unfold decodeWord
  split
  next hop => exact decodes_family0 hop
  next hop => exact (Decodes.jp _).of_eq (formatNNN_fields hop)
  next hop => exact (Decodes.call _).of_eq (formatNNN_fields hop)
  next hop => exact (Decodes.seVxKk _ _).of_eq (formatXKK_fields hop)
  next hop => exact (Decodes.sneVxKk _ _).of_eq (formatXKK_fields hop)
  next hop => exact (Decodes.seVxVy _ _ _).of_eq (formatXYN_fields hop)
  next hop => exact (Decodes.ldVxKk _ _).of_eq (formatXKK_fields hop)
  next hop => exact (Decodes.addVxKk _ _).of_eq (formatXKK_fields hop)
  next hop => exact decodes_family8 hop
  next hop => exact (Decodes.sneVxVy _ _ _).of_eq (formatXYN_fields hop)
  next hop => exact (Decodes.ldI _).of_eq (formatNNN_fields hop)
  next hop => exact (Decodes.jpV0 _).of_eq (formatNNN_fields hop)
  next hop => exact (Decodes.rndVxKk _ _).of_eq (formatXKK_fields hop)
  next hop => exact (Decodes.drw _ _ _).of_eq (formatXYN_fields hop)
  next hop => exact decodes_familyE hop
  next =>
    have hlt : (opField w).toNat < 16 := (opField w).isLt
    exact decodes_familyF (by grind)

end Families

/-! ## The roundtrips (R66 to R68, R72) -/

theorem decodeFamily0_sys {nnn : Addr12} (hwf : (Instr.sys nnn).wellFormed = true) :
    decodeFamily0 (formatNNN 0x0#4 nnn) = .sys nnn := by
  obtain ⟨hcls, hret⟩ := wellFormed_sys_iff.mp hwf
  rw [decodeFamily0, if_neg hcls, if_neg hret, nnnField_formatNNN]

/-- The fields of the encoded word select the family, then the instruction in it, and are its operands. -/
theorem decodeWord_encode {i : Instr} (hwf : i.wellFormed = true) : decodeWord (encode i) = .ok i := by
  cases i with
  | cls | ret => rfl
  | sys nnn => simp [encode, decodeWord, decodeFamily0_sys hwf]
  | ldVxVy | orVxVy | andVxVy | xorVxVy | addVxVy | subVxVy | shrVx | subnVxVy | shlVx =>
    simp [encode, decodeWord, decodeFamily8]
  | skp | sknp => simp [encode, decodeWord, decodeFamilyE]
  | ldVxDt | ldVxK | ldDtVx | ldStVx | addIVx | ldFVx | ldBVx | ldMemVx | ldVxMem =>
    simp [encode, decodeWord, decodeFamilyF]
  | _ => simp [encode, decodeWord]

theorem decode_encodeBytes_append (i : Instr) (rest : List Byte) :
    decode (encodeBytes i ++ rest) = (decodeWord (encode i)).map (·, rest) := by
  rw [← wordOfBytes_high_low (encode i)]
  rfl

/-- Settles O1: the word roundtrip, and the two bytes of a word give the word back. -/
theorem encodeThenDecodeGivesTheInstruction : Obligations.EncodeThenDecodeGivesTheInstruction := by
  intro i rest hwf
  refine ⟨decodeWord_encode hwf, ?_⟩
  rw [decode_encodeBytes_append, decodeWord_encode hwf]
  rfl

theorem Decodes.wellFormed {w : Word} {i : Instr} (h : Decodes w (.ok i)) : i.wellFormed = true := by
  cases h with
  | sys nnn hwf => exact hwf
  | _ => rfl

theorem Decodes.encode_eq {w : Word} {i : Instr} (h : Decodes w (.ok i)) :
    encode i =
      if (opField w).toNat = 5 ∨ (opField w).toNat = 9 then w &&& 0xFFF0
      else if (opField w).toNat = 8 ∧ ((nField w).val = 6 ∨ (nField w).val = 14) then w &&& 0xFF0F
      else w := by
  cases h with
  | cls | ret => decide
  | seVxVy | sneVxVy => simp [encode, formatXYN_and_FFF0]
  | shrVx | shlVx => simp [encode, formatXYN_and_FF0F]
  | _ => simp [encode]

/-- Settles O2, by the row of R65 that the word is a word of. -/
theorem decodeThenEncodeClearsIgnoredNibbles : Obligations.DecodeThenEncodeClearsIgnoredNibbles := by
  intro w i h
  have hd : Decodes w (.ok i) := h ▸ decodes_decodeWord w
  rw [toNat_div_4096, toNat_mod_16]
  exact ⟨hd.wellFormed, hd.encode_eq⟩

/-! ## The rows a word selects (R65) -/

theorem selects_iff {r : OpcodeRow} {w : Word} : r.selects w = true ↔ w &&& r.mask = r.pattern := beq_iff_eq

/-- Every mask keeps the opcode nibble, so a row selects words of its own family only (R64). -/
theorem opField_pattern_of_selects {r : OpcodeRow} {w : Word} (hr : r ∈ opcodeMap) (hs : r.selects w = true) :
    opField r.pattern = opField w := by
  have hmask : ∀ r ∈ opcodeMap, opField r.mask = 0xF#4 := by decide
  rw [← selects_iff.mp hs, opField, BitVec.extractLsb'_and]
  exact (congrArg (opField w &&& ·) (hmask r hr)).trans (and_ones4 _)

/-- Outside family 0 no two rows agree on the bits that both masks keep. -/
theorem opcodeMap_disjoint : ∀ r ∈ opcodeMap, ∀ r' ∈ opcodeMap,
    r.pattern &&& r'.mask = r'.pattern &&& r.mask → r' = r ∨ opField r.pattern = 0#4 := by decide

/-- Outside family 0 the map gives a word the mnemonic of any row that it selects. -/
theorem tableMnemonic_of_selects {r : OpcodeRow} {w : Word} (hop : opField w ≠ 0#4) (hr : r ∈ opcodeMap)
    (hs : r.selects w = true) : tableMnemonic w = some r.mnemonic := by
  obtain ⟨r', hfind⟩ : ∃ r', opcodeMap.find? (·.selects w) = some r' :=
    Option.isSome_iff_exists.mp (List.find?_isSome.mpr ⟨r, hr, hs⟩)
  have hr' := List.mem_of_find?_eq_some hfind
  have hs' : r'.selects w = true := List.find?_some (p := fun r : OpcodeRow => r.selects w) hfind
  have hagree : r.pattern &&& r'.mask = r'.pattern &&& r.mask := by
    rw [← selects_iff.mp hs, ← selects_iff.mp hs', BitVec.and_assoc, BitVec.and_assoc, BitVec.and_comm r.mask]
  rcases opcodeMap_disjoint r hr r' hr' hagree with rfl | hzero
  · rw [tableMnemonic, hfind, Option.map_some]
  · exact absurd ((opField_pattern_of_selects hr hs).symm.trans hzero) hop

/-- The word of an instruction, whatever its ignored nibble holds, selects the instruction's row. -/
theorem Decodes.exists_row {w : Word} {i : Instr} (h : Decodes w (.ok i)) :
    ∃ r ∈ opcodeMap, r.mnemonic = i.mnemonic ∧ r.selects w = true := by
  cases h with
  | seVxVy => exact ⟨⟨"SE_Vx_Vy", 0xF000, 0x5000⟩, by decide, rfl, selects_iff.mpr (formatXYN_and_F000 _ _ _ _)⟩
  | sneVxVy => exact ⟨⟨"SNE_Vx_Vy", 0xF000, 0x9000⟩, by decide, rfl, selects_iff.mpr (formatXYN_and_F000 _ _ _ _)⟩
  | shrVx => exact ⟨⟨"SHR_Vx", 0xF00F, 0x8006⟩, by decide, rfl, selects_iff.mpr (formatXYN_and_F00F _ _ _ _)⟩
  | shlVx => exact ⟨⟨"SHL_Vx", 0xF00F, 0x800E⟩, by decide, rfl, selects_iff.mpr (formatXYN_and_F00F _ _ _ _)⟩
  | cls => exact Laws.EncodedInRow.cls
  | ret => exact Laws.EncodedInRow.ret
  | sys => exact Laws.EncodedInRow.sys _
  | jp => exact Laws.EncodedInRow.jp _
  | call => exact Laws.EncodedInRow.call _
  | seVxKk => exact Laws.EncodedInRow.seVxKk _ _
  | sneVxKk => exact Laws.EncodedInRow.sneVxKk _ _
  | ldVxKk => exact Laws.EncodedInRow.ldVxKk _ _
  | addVxKk => exact Laws.EncodedInRow.addVxKk _ _
  | ldVxVy => exact Laws.EncodedInRow.ldVxVy _ _
  | orVxVy => exact Laws.EncodedInRow.orVxVy _ _
  | andVxVy => exact Laws.EncodedInRow.andVxVy _ _
  | xorVxVy => exact Laws.EncodedInRow.xorVxVy _ _
  | addVxVy => exact Laws.EncodedInRow.addVxVy _ _
  | subVxVy => exact Laws.EncodedInRow.subVxVy _ _
  | subnVxVy => exact Laws.EncodedInRow.subnVxVy _ _
  | ldI => exact Laws.EncodedInRow.ldI _
  | jpV0 => exact Laws.EncodedInRow.jpV0 _
  | rndVxKk => exact Laws.EncodedInRow.rndVxKk _ _
  | drw => exact Laws.EncodedInRow.drw _ _ _
  | skp => exact Laws.EncodedInRow.skp _
  | sknp => exact Laws.EncodedInRow.sknp _
  | ldVxDt => exact Laws.EncodedInRow.ldVxDt _
  | ldVxK => exact Laws.EncodedInRow.ldVxK _
  | ldDtVx => exact Laws.EncodedInRow.ldDtVx _
  | ldStVx => exact Laws.EncodedInRow.ldStVx _
  | addIVx => exact Laws.EncodedInRow.addIVx _
  | ldFVx => exact Laws.EncodedInRow.ldFVx _
  | ldBVx => exact Laws.EncodedInRow.ldBVx _
  | ldMemVx => exact Laws.EncodedInRow.ldMemVx _
  | ldVxMem => exact Laws.EncodedInRow.ldVxMem _

/-- A word of family 0 that is neither that of CLS nor that of RET passes both of their rows. -/
theorem tableMnemonic_sys {nnn : Addr12} (hwf : (Instr.sys nnn).wellFormed = true) :
    tableMnemonic (formatNNN 0x0#4 nnn) = some "SYS_addr" := by
  obtain ⟨hcls, hret⟩ := wellFormed_sys_iff.mp hwf
  have hall (w : Word) : w &&& 0xFFFF#16 = w := BitVec.and_allOnes
  have hsys : formatNNN 0x0#4 nnn &&& 0xF000#16 = 0x0000#16 := formatNNN_and_F000 _ _
  simp [tableMnemonic, opcodeMap, opcodeRows0To7, OpcodeRow.selects, hall, hcls, hret, hsys]

theorem Decodes.tableMnemonic_ok {w : Word} {i : Instr} (h : Decodes w (.ok i)) : tableMnemonic w = some i.mnemonic := by
  obtain ⟨r, hr, hmnemonic, hs⟩ := h.exists_row
  rw [← hmnemonic]
  cases h with
  | cls | ret => rw [hmnemonic]; rfl
  | sys nnn hwf => rw [hmnemonic]; exact tableMnemonic_sys hwf
  | _ => exact tableMnemonic_of_selects (by simp) hr hs

/-! The rows of the families that have a second level (R67, R69, R70): their masks, and the discriminators they stand for -/

theorem family8_rows : ∀ r ∈ opcodeMap, opField r.pattern = 0x8#4 →
    r.mask = 0xF00F#16 ∧ (nField r.pattern).val ∈ [0x0, 0x1, 0x2, 0x3, 0x4, 0x5, 0x6, 0x7, 0xE] := by decide

theorem familyE_rows : ∀ r ∈ opcodeMap, opField r.pattern = 0xE#4 →
    r.mask = 0xF0FF#16 ∧ (kkField r.pattern).toNat ∈ [0x9E, 0xA1] := by decide

theorem familyF_rows : ∀ r ∈ opcodeMap, opField r.pattern = 0xF#4 → r.mask = 0xF0FF#16 ∧
    (kkField r.pattern).toNat ∈ [0x07, 0x0A, 0x15, 0x18, 0x1E, 0x29, 0x33, 0x55, 0x65] := by decide

/-- A row that selects a word stands for the word's own discriminator, and R71's words have none that a row stands for. -/
theorem Decodes.tableMnemonic_error {w : Word} {u : Undefined} (h : Decodes w (.error u)) : tableMnemonic w = none := by
  refine Option.map_eq_none_iff.mpr (List.find?_eq_none.mpr fun r hr hs => ?_)
  have hop := opField_pattern_of_selects hr hs
  have hw := selects_iff.mp hs
  cases h with
  | undefined8 x y n hn =>
    obtain ⟨hmask, hmem⟩ := family8_rows r hr (hop.trans (opField_formatXYN _ _ _ _))
    rw [hmask, formatXYN_and_F00F] at hw
    exact hn (by rwa [← hw, nField_formatXYN] at hmem)
  | undefinedE x kk hkk =>
    obtain ⟨hmask, hmem⟩ := familyE_rows r hr (hop.trans (opField_formatXKK _ _ _))
    rw [hmask, formatXKK_and_F0FF] at hw
    exact hkk (by rwa [← hw, kkField_formatXKK] at hmem)
  | undefinedF x kk hkk =>
    obtain ⟨hmask, hmem⟩ := familyF_rows r hr (hop.trans (opField_formatXKK _ _ _))
    rw [hmask, formatXKK_and_F0FF] at hw
    exact hkk (by rwa [← hw, kkField_formatXKK] at hmem)

/-- Settles O3: a decoded word selects the instruction's row, and a rejected word selects none. -/
theorem decoderAgreesWithTheOpcodeMap : Obligations.DecoderAgreesWithTheOpcodeMap := by
  intro w
  have h := decodes_decodeWord w
  rcases hd : decodeWord w with u | i <;> rw [hd] at h
  · exact h.tableMnemonic_error.symm
  · exact h.tableMnemonic_ok.symm

/-! ## The words of R71 -/

theorem Decodes.eq_error_iff {w : Word} {r : Except Undefined Instr} (h : Decodes w r) :
    (∃ u, r = .error u) ↔
      ((opField w).toNat = 8 ∧ (nField w).val ∈ [8, 9, 10, 11, 12, 13, 15]) ∨
      ((opField w).toNat = 14 ∧ (kkField w).toNat ∉ [0x9E, 0xA1]) ∨
      ((opField w).toNat = 15 ∧ (kkField w).toNat ∉ [0x07, 0x0A, 0x15, 0x18, 0x1E, 0x29, 0x33, 0x55, 0x65]) := by
  cases h with
  | cls | ret => simp [opField]
  | undefined8 x y n hn =>
    have hmem : n.val ∈ [8, 9, 10, 11, 12, 13, 15] := by
      simp only [List.mem_cons, List.not_mem_nil, or_false] at hn ⊢
      omega
    simpa using hmem
  | undefinedE x kk hkk => simpa using hkk
  | undefinedF x kk hkk => simpa using hkk
  | _ => simp

theorem Decodes.eq_sys_iff {w : Word} {r : Except Undefined Instr} (h : Decodes w r) :
    (∃ nnn, r = .ok (.sys nnn)) ↔ w.toNat < 0x1000 ∧ w.toNat ≠ 0x0E0 ∧ w.toNat ≠ 0x0EE := by
  have hlt : w.toNat < 0x1000 ↔ (opField w).toNat = 0 := by
    rw [← toNat_div_4096]
    omega
  rw [hlt]
  cases h with
  | cls | ret => simp
  | sys nnn hwf => simpa [formatNNN_toNat, ← BitVec.toNat_inj, Instr.wellFormed] using hwf
  | _ => simp

/-- Settles O4, by the row of R65 or the words of R71 that the word belongs to. -/
theorem undefinedWordsAreExactlyTheList : Obligations.UndefinedWordsAreExactlyTheList := by
  intro w
  have h := decodes_decodeWord w
  rw [toNat_div_4096, toNat_mod_16, toNat_mod_256]
  exact ⟨h.eq_error_iff, h.eq_sys_iff⟩

/-- Settles O5: seven closed words. -/
theorem sampleWordsDecode : Obligations.SampleWordsDecode := by
  unfold Obligations.SampleWordsDecode
  decide

end Sys2Proof
end

section
/-! SUPPORT. The proofs of the dispatch family (spec/40_fetch_dispatch.md): one equation for each case of a host's `Step`, and
from them what a step does with a halted engine, an unfetchable `pc`, an undefined word, a jump to itself and a placed word. -/

namespace Sys2Proof.Machine

/-! ## One equation per case of a host's `Step` (R80, R81, R83, R85) -/

section HostStep

variable {s : State} {keys : BitVec 16} {rnd : Byte}

theorem hostStep_of_halted (hf : s.fault ≠ .none) : hostStep keys rnd s = .next s := by
  simpa [hf] using hostStep_cases keys rnd s

theorem hostStep_of_unfetchable (hf : s.fault = .none) (hpc : 0xFFE < s.pc.toNat) :
    hostStep keys rnd s = .next (((s.sampleInputs keys rnd).writeLoadPermitted false).writeFault .addressOutOfRange) := by
  simpa [hf, hpc, hpc.not_ge] using hostStep_cases keys rnd s

theorem hostStep_of_undefined {u : Undefined} (hf : s.fault = .none) (hpc : s.pc.toNat ≤ 0xFFE)
    (hw : decodeWord (wordOfBytes (s.byteAt s.pc.toNat) (s.byteAt (s.pc.toNat + 1))) = .error u) :
    hostStep keys rnd s = .next ((s.sampleInputs keys rnd).writeLoadPermitted false).advancePc := by
  simpa [hf, hpc, hpc.not_gt, hw] using hostStep_cases keys rnd s

theorem hostStep_of_decoded {i : Instr} (hf : s.fault = .none) (hpc : s.pc.toNat ≤ 0xFFE)
    (hw : decodeWord (wordOfBytes (s.byteAt s.pc.toNat) (s.byteAt (s.pc.toNat + 1))) = .ok i) :
    hostStep keys rnd s = exec i ((s.sampleInputs keys rnd).writeLoadPermitted false).advancePc := by
  simpa [hf, hpc, hpc.not_gt, hw] using hostStep_cases keys rnd s

/-- A scripted `Step` runs the decoded instruction, its inputs the script's. -/
theorem step_of_decoded {rest : List HostOp} {i : Instr} (hs : s.script = .step keys rnd :: rest) (hf : s.fault = .none)
    (hpc : s.pc.toNat ≤ 0xFFE)
    (hw : decodeWord (wordOfBytes (s.byteAt s.pc.toNat) (s.byteAt (s.pc.toNat + 1))) = .ok i) :
    step s = exec i (((s.writeScript rest).sampleInputs keys rnd).writeLoadPermitted false).advancePc :=
  (step_cons hs).trans (hostStep_of_decoded (s := s.writeScript rest) hf hpc hw)

end HostStep

/-! ## The model's own fields are no part of the engine (R25) -/

section SameEngine

variable {s t : State}

theorem SameEngine.refl (s : State) : SameEngine s s :=
  ⟨fun _ => rfl, rfl, rfl, ⟨rfl, fun _ => rfl⟩, fun _ => rfl, fun _ => rfl, ⟨rfl, rfl⟩, rfl⟩

@[simp] theorem sameEngine_writeScript {ops : List HostOp} : SameEngine s (t.writeScript ops) ↔ SameEngine s t := Iff.rfl

@[simp] theorem sameEngine_sampleInputs {keys : BitVec 16} {rnd : Byte} :
    SameEngine s (t.sampleInputs keys rnd) ↔ SameEngine s t := Iff.rfl

@[simp] theorem sameEngine_writeLoadPermitted {b : Bool} : SameEngine s (t.writeLoadPermitted b) ↔ SameEngine s t := Iff.rfl

/-- What a scripted `Step` writes before it fetches leaves the engine as it was. -/
theorem sameEngine_stepInputs (s : State) (rest : List HostOp) (keys : BitVec 16) (rnd : Byte) :
    SameEngine s (((s.writeScript rest).sampleInputs keys rnd).writeLoadPermitted false) := by
  simpa using SameEngine.refl s

end SameEngine

/-! ## The step -/

/-- Settles O6: the two ways the next operation is a `Step`, each with the decoded case of its equations. -/
theorem stepRunsTheDecodedInstruction : Obligations.StepRunsTheDecodedInstruction := by
  constructor
  · exact fun _ _ _ _ _ => step_of_decoded
  · intro s i hs hf hpc hw
    rw [step_nil hs]
    exact hostStep_of_decoded (s := s.writeDraws (s.draws + 1)) hf hpc hw

/-- Settles O8: after the fetch's advance an undefined word writes nothing. -/
theorem undefinedWordOnlyAdvancesPc : Obligations.UndefinedWordOnlyAdvancesPc := by
  intro s keys rnd rest u hs hf hpc hw
  refine ⟨_, (step_cons hs).trans (hostStep_of_undefined (s := s.writeScript rest) hf hpc hw), ?_⟩
  exact sameEngine_stepInputs s.advancePc rest keys rnd

/-- Settles O9: the fetch fault writes the latch alone. -/
theorem fetchOutOfRangeTakesTheAddressFault : Obligations.FetchOutOfRangeTakesTheAddressFault := by
  intro s keys rnd rest hs hf hpc
  refine ⟨_, (step_cons hs).trans (hostStep_of_unfetchable (s := s.writeScript rest) hf hpc), ?_⟩
  exact sameEngine_stepInputs (s.writeFault .addressOutOfRange) rest keys rnd

/-- Settles O10: a halted `Step` takes itself off the script and writes nothing else. -/
theorem haltedStepChangesNothing : Obligations.HaltedStepChangesNothing := by
  intro s keys rnd rest hs hf
  refine ⟨_, (step_cons hs).trans (hostStep_of_halted (s := s.writeScript rest) hf), ?_, rfl, rfl⟩
  exact sameEngine_writeScript.mpr (SameEngine.refl s)

/-- Settles O29: SYS is dispatched to the meaning that answers the state it was given. -/
theorem sysChangesNothing : Obligations.SysChangesNothing := fun _ _ => rfl

/-! ## A jump to itself (R86) -/

/-- The word 0x1000 + a, for an address a of 12 bits, is a jump to a (R65, R92). -/
theorem decodeWord_of_toNat_eq_jp {w a : Word} (ha : a.toNat < 0x1000) (hw : w.toNat = 0x1000 + a.toNat) :
    ∃ nnn, decodeWord w = .ok (.jp nnn) ∧ zextAddr nnn = a := by
  have hnnn : (a.setWidth 12).toNat = a.toNat := by
    rw [BitVec.toNat_setWidth, Nat.mod_eq_of_lt ha]
  have hencode : w = encode (.jp (a.setWidth 12)) := by
    apply BitVec.eq_of_toNat_eq
    rw [encode, formatNNN_toNat, hnnn, hw]
    rfl
  refine ⟨a.setWidth 12, hencode ▸ decodeWord_encode rfl, BitVec.eq_of_toNat_eq ?_⟩
  rw [zextAddr_toNat, hnnn]

/-- Settles O33: the word decodes to a jump to `pc`, which undoes the fetch's advance. -/
theorem selfJumpChangesNothing : Obligations.SelfJumpChangesNothing := by
  intro s keys rnd rest hs hf hpc hbytes
  obtain ⟨nnn, hw, hnnn⟩ := decodeWord_of_toNat_eq_jp (Nat.lt_of_le_of_lt hpc (by decide))
    ((wordOfBytes_toNat _ _).trans hbytes)
  refine ⟨_, step_of_decoded hs hf hpc hw, ?_⟩
  rw [hnnn]
  exact sameEngine_stepInputs s rest keys rnd

/-! ## Placing a word (log 6) -/

section Placing

variable {s : State} {w : Word}

theorem tableBytes_toNat (w : Word) : tableBytes 16 w.toNat = [highByte w, lowByte w] := by
  rw [tableBytes, Nat.mod_eq_of_lt w.isLt, BitVec.ofNat_toNat, BitVec.setWidth_eq]

theorem fetchAddress_of_le (h : s.pc.toNat ≤ 0xFFE) : fetchAddress s = s.pc := if_pos h

/-- A word can be fetched at the fetch address. -/
theorem fetchAddress_le (s : State) : (fetchAddress s).toNat ≤ 0xFFE := by
  rw [fetchAddress]
  split
  · assumption
  · decide

/-! What the placing writes besides memory, and what it leaves -/
@[simp] theorem State.withFetchWord_pc {n v : Nat} : (s.withFetchWord n v).pc = fetchAddress s := rfl
@[simp] theorem State.withFetchWord_fault {n v : Nat} : (s.withFetchWord n v).fault = .none := rfl
@[simp] theorem State.withFetchWord_script {n v : Nat} :
    (s.withFetchWord n v).script = .step s.keys s.rnd :: s.script := rfl
@[simp] theorem State.withFetchWord_reg {n v : Nat} (r : Reg) : (s.withFetchWord n v).reg r = s.reg r := rfl
@[simp] theorem State.withFetchWord_I {n v : Nat} : (s.withFetchWord n v).I = s.I := rfl
@[simp] theorem State.withFetchWord_sp {n v : Nat} : (s.withFetchWord n v).sp = s.sp := rfl
@[simp] theorem State.withFetchWord_stackEntry {n v : Nat} (k : Fin 16) :
    (s.withFetchWord n v).stackEntry k = s.stackEntry k := rfl
@[simp] theorem State.withFetchWord_cell {n v : Nat} (k : Nat) : (s.withFetchWord n v).cell k = s.cell k := rfl
@[simp] theorem State.withFetchWord_DT {n v : Nat} : (s.withFetchWord n v).DT = s.DT := rfl
@[simp] theorem State.withFetchWord_ST {n v : Nat} : (s.withFetchWord n v).ST = s.ST := rfl

theorem State.withFetchWord_byteAt (hwf : s.memory.wf = true) (a : Nat) :
    (s.withFetchWord 16 w.toNat).byteAt a =
      if (fetchAddress s).toNat ≤ a ∧ a < (fetchAddress s).toNat + 2 then
        [highByte w, lowByte w].getD (a - (fetchAddress s).toNat) 0
      else s.byteAt a := by
  have hle := fetchAddress_le s
  rw [State.withFetchWord, tableBytes_toNat]
  exact Memory.read_writeAll hwf (bytes := [highByte w, lowByte w]) (Nat.add_le_add_right hle 2) a

theorem State.withFetchWord_byteAt_first (hwf : s.memory.wf = true) :
    (s.withFetchWord 16 w.toNat).byteAt (fetchAddress s).toNat = highByte w := by
  simp [State.withFetchWord_byteAt hwf]

theorem State.withFetchWord_byteAt_second (hwf : s.memory.wf = true) :
    (s.withFetchWord 16 w.toNat).byteAt ((fetchAddress s).toNat + 1) = lowByte w := by
  simp [State.withFetchWord_byteAt hwf]

theorem State.withFetchWord_byteAt_other (hwf : s.memory.wf = true) (a : Nat)
    (ha : a < (fetchAddress s).toNat ∨ (fetchAddress s).toNat + 1 < a) :
    (s.withFetchWord 16 w.toNat).byteAt a = s.byteAt a := by
  rw [State.withFetchWord_byteAt hwf, if_neg (by omega)]

/-- The word at the fetch address of the state in which `w` is placed is `w`. -/
theorem State.withFetchWord_word (hwf : s.memory.wf = true) :
    wordOfBytes ((s.withFetchWord 16 w.toNat).byteAt (fetchAddress s).toNat)
      ((s.withFetchWord 16 w.toNat).byteAt ((fetchAddress s).toNat + 1)) = w := by
  rw [State.withFetchWord_byteAt_first hwf, State.withFetchWord_byteAt_second hwf, wordOfBytes_high_low]

end Placing

/-- Settles O48: the step after the placing fetches the placed word, and placing and fetch touch only `pc`, the two bytes,
the latch and the host's side. -/
theorem placedWordRunsNext : Obligations.PlacedWordRunsNext := by
  intro s w i hwf hw
  have hword := State.withFetchWord_word (w := w) hwf
  have hrun := step_of_decoded (s := s.withFetchWord 16 w.toNat) State.withFetchWord_script State.withFetchWord_fault
    (fetchAddress_le s) ((congrArg decodeWord hword).trans hw)
  have hpc : (fetchAddress s + 2).toNat = (fetchAddress s).toNat + 2 := by
    have := fetchAddress_le s
    bv_omega
  refine ⟨_, hrun, hpc, fun h => (fetchAddress_of_le h) ▸ hpc, ?_⟩
  rw [← wordOfBytes_toNat]
  simpa [State.advancePc, SameRegs, SameStack, SameDisplay, SameTimers, hword] using
    State.withFetchWord_byteAt_other (w := w) hwf

end Sys2Proof.Machine
end

section
/-! SUPPORT. The proofs of the control-flow family (spec/41_control_flow.md): the instructions that write `pc` alone, and the two
that also use the return stack. -/

namespace Sys2Proof.Machine

/-! ## Instructions that write `pc` alone (R92, R94 to R98) -/

section WritesPc

variable {i : Instr} {s : State}

theorem SameButPc.writePc (s : State) (w : Word) : SameButPc s (s.writePc w) :=
  ⟨fun _ => rfl, rfl, ⟨rfl, fun _ => rfl⟩, fun _ => rfl, fun _ => rfl, ⟨rfl, rfl⟩, rfl, rfl, rfl, rfl, rfl, rfl, rfl⟩

theorem writesOnlyPc_of_writePc {w : Word} {p : Nat} (h : exec i s = .next (s.writePc w)) (hw : w.toNat = p) :
    WritesOnlyPc i s p :=
  ⟨_, h, hw, SameButPc.writePc s w⟩

/-- A skip's new `pc` is one instruction further, modulo 65536, exactly when its condition holds (R94). -/
theorem writesOnlyPc_of_skipIf {c : Bool} (h : exec i s = .next (s.skipIf c)) :
    WritesOnlyPc i s (if c then (s.pc.toNat + 2) % 65536 else s.pc.toNat) := by
  refine writesOnlyPc_of_writePc h ?_
  cases c
  · rfl
  · exact BitVec.toNat_add s.pc 2

/-- The target of JP V0,addr is the unreduced sum: 0xFFF + 0xFF fits in 16 bits (R98). -/
theorem indexedTarget_toNat (nnn : Addr12) (b : Byte) : (zextAddr nnn + zextByte b).toNat = nnn.toNat + b.toNat := by
  rw [BitVec.toNat_add, zextAddr_toNat, zextByte_toNat]
  omega

end WritesPc

/-- Settles O27: the four skips are one form, on the equality of the two values or on its negation. -/
theorem skipsMovePcWhenTheConditionHolds : Obligations.SkipsMovePcWhenTheConditionHolds := by
  intro s x y kk
  have hseKk : WritesOnlyPc (.seVxKk x kk) s _ := writesOnlyPc_of_skipIf (c := s.reg x == kk) rfl
  have hsneKk : WritesOnlyPc (.sneVxKk x kk) s _ := writesOnlyPc_of_skipIf (c := s.reg x != kk) rfl
  have hseVy : WritesOnlyPc (.seVxVy x y) s _ := writesOnlyPc_of_skipIf (c := s.reg x == s.reg y) rfl
  have hsneVy : WritesOnlyPc (.sneVxVy x y) s _ := writesOnlyPc_of_skipIf (c := s.reg x != s.reg y) rfl
  simp only [beq_iff_eq, bne_iff_ne, ne_eq, ite_not] at hseKk hsneKk hseVy hsneVy
  exact ⟨hseKk, hsneKk, hseVy, hsneVy⟩

/-- Settles O28: both jumps write `pc` alone, and the next fetch refuses a target above 0xFFE. -/
theorem jumpsSetPc : Obligations.JumpsSetPc := by
  intro s nnn
  refine ⟨writesOnlyPc_of_writePc rfl (zextAddr_toNat nnn), writesOnlyPc_of_writePc rfl (indexedTarget_toNat nnn _), ?_⟩
  intro t ht habove
  obtain rfl := Host.Outcome.next.inj ht
  rw [← indexedTarget_toNat] at habove
  exact fetchWord_eq_none.mpr habove

/-! ## CALL and RET write `pc`, the stack and its pointer alone (R91, R93) -/

section PcStack

variable {s t : State}

theorem SameButPcStack.refl (s : State) : SameButPcStack s s :=
  ⟨fun _ => rfl, rfl, fun _ => rfl, fun _ => rfl, ⟨rfl, rfl⟩, rfl, rfl, rfl, rfl, rfl, rfl, rfl⟩

@[simp] theorem sameButPcStack_writePc {w : Word} : SameButPcStack s (t.writePc w) ↔ SameButPcStack s t := Iff.rfl

@[simp] theorem sameButPcStack_writeSp {n : Fin 17} : SameButPcStack s (t.writeSp n) ↔ SameButPcStack s t := Iff.rfl

@[simp] theorem sameButPcStack_writeStack {k : Fin 16} {w : Word} :
    SameButPcStack s (t.writeStack k w) ↔ SameButPcStack s t := Iff.rfl

end PcStack

/-- Settles O30: the entry CALL writes is the one at `sp`. -/
theorem callPushesTheReturnAddress : Obligations.CallPushesTheReturnAddress := by
  intro s nnn hsp
  refine ⟨_, exec_call nnn hsp, rfl, fun k => ?_, zextAddr_toNat nnn, ?_⟩
  · simp [Fin.ext_iff]
  · simpa using SameButPcStack.refl s

/-- Settles O31: the entry RET reads is the one below `sp`, and no entry is written. -/
theorem retPopsTheReturnAddress : Obligations.RetPopsTheReturnAddress := by
  intro s hsp
  refine ⟨_, exec_ret hsp, Nat.sub_add_cancel hsp, fun _ => rfl, fun k hk => ?_, ?_⟩
  · exact congrArg s.stackEntry (Fin.ext (Nat.eq_sub_of_add_eq hk).symm)
  · simpa using SameButPcStack.refl s

/-- Settles O32: RET pops the entry CALL pushed, for the fetch between them moves only `pc`. -/
theorem callThenRetComesBack : Obligations.CallThenRetComesBack := by
  intro s nnn hsp
  refine ⟨_, _, exec_call nnn hsp, exec_ret (Nat.succ_pos _), ?_, rfl, fun k hk => ?_, ?_⟩
  · simp [State.advancePc]
  · simp [State.advancePc, Fin.ext_iff, hk.ne]
  · simpa [State.advancePc] using SameButPcStack.refl s

end Sys2Proof.Machine
end

section
/-! SUPPORT. The proofs of the ALU family (spec/42_alu.md): the instructions that write one register, and those that write the
flag before it. -/

namespace Sys2Proof.Machine

/-! ## Register writes leave everything but the general registers -/

section WritesReg

variable {i : Instr} {s t : State}

theorem SameButRegs.refl (s : State) : SameButRegs s s :=
  ⟨rfl, rfl, ⟨rfl, fun _ => rfl⟩, fun _ => rfl, fun _ => rfl, ⟨rfl, rfl⟩, rfl, rfl, rfl, rfl, rfl, rfl, rfl⟩

@[simp] theorem sameButRegs_writeV {x : Reg} {b : Byte} : SameButRegs s (t.writeV x b) ↔ SameButRegs s t := Iff.rfl

@[simp] theorem sameButRegs_writeFlagThenV {c : Bool} {x : Reg} {b : Byte} :
    SameButRegs s (t.writeFlagThenV c x b) ↔ SameButRegs s t := Iff.rfl

theorem writesOnlyReg_of_writeV {x : Reg} {b : Byte} {v : Nat} (h : exec i s = .next (s.writeV x b))
    (hb : b.toNat = v) : WritesOnlyReg i s x v := by
  refine ⟨_, h, fun r => ?_, sameButRegs_writeV.mpr (SameButRegs.refl s)⟩
  rw [State.reg_writeV, apply_ite BitVec.toNat, hb]

/-- The flag goes to `VF` first, so the result stays where `VF` is the destination (R110). -/
theorem writesFlagAndReg_of_writeFlagThenV {flag : Prop} [Decidable flag] {c : Bool} {x : Reg} {b : Byte} {v : Nat}
    (h : exec i s = .next (s.writeFlagThenV c x b)) (hc : c = true ↔ flag) (hb : b.toNat = v) :
    WritesFlagAndReg i s flag x v := by
  refine ⟨_, h, fun r => ?_, sameButRegs_writeFlagThenV.mpr (SameButRegs.refl s)⟩
  simp only [State.writeFlagThenV_reg, apply_ite BitVec.toNat, flagByte_toNat, hc, hb]

end WritesReg

/-- Settles O25: the five write a flag and a result in the order of R110, each with its own flag and result. -/
theorem flaggedArithmeticWritesFlagAndResult : Obligations.FlaggedArithmeticWritesFlagAndResult := by
  intro s x y
  refine ⟨?add, ?sub, ?shr, ?subn, ?shl⟩
  case add => exact writesFlagAndReg_of_writeFlagThenV rfl (carryFlag_iff _ _) (addResult_toNat _ _)
  case sub => exact writesFlagAndReg_of_writeFlagThenV rfl (greaterFlag_iff _ _) (subResult_toNat _ _)
  case shr => exact writesFlagAndReg_of_writeFlagThenV rfl (shrFlag_iff _) (shrResult_toNat _)
  case subn => exact writesFlagAndReg_of_writeFlagThenV rfl (greaterFlag_iff _ _) (subResult_toNat _ _)
  case shl => exact writesFlagAndReg_of_writeFlagThenV rfl (shlFlag_iff _) (shlResult_toNat _)

/-- Settles O23: the six write one register, `VF` only where it is the destination. -/
theorem loadsAndLogicWriteOneRegister : Obligations.LoadsAndLogicWriteOneRegister := by
  intro s x y kk
  refine ⟨?ldKk, ?addKk, ?ldVy, ?or, ?and, ?xor⟩
  case ldKk => exact writesOnlyReg_of_writeV rfl rfl
  case addKk => exact writesOnlyReg_of_writeV rfl (addResult_toNat _ _)
  case ldVy => exact writesOnlyReg_of_writeV rfl rfl
  case or => exact writesOnlyReg_of_writeV rfl (BitVec.toNat_or _ _)
  case and => exact writesOnlyReg_of_writeV rfl (BitVec.toNat_and _ _)
  case xor => exact writesOnlyReg_of_writeV rfl (BitVec.toNat_xor _ _)

/-- Settles O24: the byte RND masks is the one sampled for the step (R123, D1). -/
theorem rndMasksTheRandomByte : Obligations.RndMasksTheRandomByte :=
  fun _ _ _ => writesOnlyReg_of_writeV rfl (BitVec.toNat_and _ _)

end Sys2Proof.Machine
end

section
/-! SUPPORT. The proofs of the index and memory family (spec/43_index_memory.md): the instructions that write `I` alone, the two
stores through `I`, and the block load. -/

namespace Sys2Proof.Machine

/-! ## Instructions that write `I` alone (R131 to R133) -/

section WritesI

variable {i : Instr} {s : State}

theorem SameButI.writeI (s : State) (w : Word) : SameButI s (s.writeI w) :=
  ⟨fun _ => rfl, rfl, ⟨rfl, fun _ => rfl⟩, fun _ => rfl, fun _ => rfl, ⟨rfl, rfl⟩, rfl, rfl, rfl, rfl, rfl, rfl, rfl⟩

theorem writesOnlyI_of_writeI {w : Word} {v : Nat} (h : exec i s = .next (s.writeI w)) (hw : w.toNat = v) :
    WritesOnlyI i s v :=
  ⟨_, h, hw, SameButI.writeI s w⟩

end WritesI

/-- Settles O34: the operand's 12 bits and the glyph address both fit in `I`, so neither is reduced. -/
theorem indexLoadsSetI : Obligations.IndexLoadsSetI :=
  fun _ nnn _ => ⟨writesOnlyI_of_writeI rfl (zextAddr_toNat nnn), writesOnlyI_of_writeI rfl (glyphAddr_toNat _)⟩

/-- Settles O35: the sum is a 16-bit one, which is the sum modulo 65536 (D21). -/
theorem addToIndexWrapsAt16Bits : Obligations.AddToIndexWrapsAt16Bits := by
  intro s x
  refine writesOnlyI_of_writeI rfl ?_
  rw [BitVec.toNat_add, zextByte_toNat]

/-! ## Stores through `I` (R134, R135) -/

theorem SameButMemory.writeMemory (s : State) (m : Memory) : SameButMemory s (s.writeMemory m) :=
  ⟨fun _ => rfl, rfl, rfl, ⟨rfl, fun _ => rfl⟩, fun _ => rfl, ⟨rfl, rfl⟩, rfl, rfl, rfl, rfl, rfl, rfl, rfl⟩

/-- A store through `I` in range completes with its bytes from `I` on and everything else, every other byte too, as before. -/
theorem storeFromIndex_stores {s : State} {bytes : List Byte} (hwf : s.memory.wf = true)
    (hfits : indexAddr s + bytes.length ≤ 4096) :
    ∃ t, storeFromIndex bytes s = .next t ∧
      (∀ k < bytes.length, t.byteAt (indexAddr s + k) = bytes.getD k 0) ∧
      (∀ a, a < indexAddr s ∨ indexAddr s + bytes.length ≤ a → t.byteAt a = s.byteAt a) ∧ SameButMemory s t := by
  have hread := Memory.read_writeAll hwf hfits
  refine ⟨_, storeFromIndex_eq hfits, fun k hk => ?inside, fun a ha => ?outside, SameButMemory.writeMemory s _⟩
  case inside => exact (hread _).trans (by rw [if_pos (by omega), Nat.add_sub_cancel_left])
  case outside => exact (hread a).trans (if_neg (by omega))

theorem getD_decimalDigits_toNat (a : Byte) (k : Nat) :
    ((decimalDigits a).getD k 0).toNat = [a.toNat / 100, a.toNat / 10 % 10, a.toNat % 10].getD k 0 := by
  rw [← decimalDigits_toNat]
  exact (List.getD_map _ (0 : Byte) BitVec.toNat).symm

/-- Settles O36: each is one store through `I`, of the three digits or of V0 to Vx. -/
theorem storesWriteExactlyTheirBytes : Obligations.StoresWriteExactlyTheirBytes := by
  intro s x hwf
  refine ⟨fun hrange => ?digits, fun hrange => ?registers⟩
  case digits =>
    obtain ⟨t, hexec, hstored, hkept, hsame⟩ := storeFromIndex_stores (bytes := decimalDigits (s.reg x)) hwf
      (Nat.succ_le_succ hrange)
    have hdigit : ∀ k < 3, (t.byteAt (indexAddr s + k)).toNat = _ := fun k hk =>
      (congrArg BitVec.toNat (hstored k hk)).trans (getD_decimalDigits_toNat _ k)
    exact ⟨t, hexec, hdigit 0 (by decide), hdigit 1 (by decide), hdigit 2 (by decide), hkept, hsame⟩
  case registers =>
    have hlen := length_firstRegs s x
    obtain ⟨t, hexec, hstored, hkept, hsame⟩ := storeFromIndex_stores (bytes := firstRegs s x) hwf (by omega)
    rw [hlen] at hstored hkept
    refine ⟨t, hexec, fun k hk => ?_, hkept, hsame⟩
    rw [hstored k (Nat.lt_succ_of_le hk), getD_firstRegs s x hk]

/-! ## The block load (R136) -/

@[simp] theorem sameButRegs_writeVs {s t : State} {vs : Vector Byte 16} :
    SameButRegs s (t.writeVs vs) ↔ SameButRegs s t := Iff.rfl

/-- Loading a block of `n` bytes from register 0 on fills the first `n` registers and keeps the others. -/
theorem getElem_loadRegs_readAll (vs : Vector Byte 16) (m : Memory) (base n : Nat) (r : Reg) :
    (loadRegs vs 0 (m.readAll base n))[r] = if r.val < n then m.read (base + r.val) else vs[r] := by
  rw [Fin.getElem_fin, getElem_loadRegs, Memory.length_readAll]
  simp only [Nat.zero_le, true_and, Nat.zero_add, Nat.sub_zero]
  split
  case isTrue hr => rw [List.getD_eq_getElem _ _ (by simpa using hr), Memory.getElem_readAll]
  case isFalse => rfl

/-- Settles O37: the block fills the first x + 1 registers, which are those up to x. -/
theorem blockLoadFillsTheRegisters : Obligations.BlockLoadFillsTheRegisters := by
  intro s x hrange
  refine ⟨_, exec_ldVxMem (Nat.succ_le_succ hrange), fun r => ?_, sameButRegs_writeVs.mpr (SameButRegs.refl s)⟩
  rw [State.reg_writeVs, getElem_loadRegs_readAll]
  simp only [Nat.lt_succ_iff]
  rfl

/-- Settles O38: the store keeps `I` (D25) and writing registers in between keeps memory, so the load reads the stored block. -/
theorem storeThenLoadGivesTheRegistersBack : Obligations.StoreThenLoadGivesTheRegistersBack := by
  intro s x between hwf hrange
  obtain ⟨-, hstore⟩ := storesWriteExactlyTheirBytes s x hwf
  obtain ⟨t, hstored, hbytes, -, -, hI, -⟩ := hstore hrange
  have hindex : indexAddr (t.writeVs between) = indexAddr s := congrArg BitVec.toNat hI
  obtain ⟨u, hloaded, hregs, -⟩ := blockLoadFillsTheRegisters (t.writeVs between) x (by rwa [hindex])
  refine ⟨t, u, hstored, hloaded, fun r => ?_⟩
  rw [hregs, hindex, State.reg_writeVs, State.byteAt_writeVs]
  split
  case isTrue hr => exact hbytes r hr
  case isFalse => rfl

end Sys2Proof.Machine
end

section
/-! SUPPORT. The proofs of the display family (spec/44_display.md): what CLS and DRW leave, and the two draws of one sprite. -/

namespace Sys2Proof.Machine

/-! ## Display and register writes leave everything else -/

section DisplayFrame

variable {s t : State}

theorem SameButDisplayRegs.refl (s : State) : SameButDisplayRegs s s :=
  ⟨rfl, rfl, ⟨rfl, fun _ => rfl⟩, fun _ => rfl, ⟨rfl, rfl⟩, rfl, rfl, rfl, rfl, rfl, rfl, rfl⟩

@[simp] theorem sameButDisplayRegs_writeDisplay {d : DisplayRows} :
    SameButDisplayRegs s (t.writeDisplay d) ↔ SameButDisplayRegs s t := Iff.rfl

@[simp] theorem sameButDisplayRegs_writeV {r : Reg} {b : Byte} :
    SameButDisplayRegs s (t.writeV r b) ↔ SameButDisplayRegs s t := Iff.rfl

end DisplayFrame

/-- Settles O40: CLS writes the blank display and nothing else. -/
theorem clsClearsTheDisplay : Obligations.ClsClearsTheDisplay := by
  intro s
  refine ⟨s.writeDisplay blankDisplay, rfl, fun k => ?_, fun _ => rfl, ?_⟩
  · rw [State.cell_writeDisplay, displayCell_blankDisplay]
  · rw [sameButDisplayRegs_writeDisplay]
    exact SameButDisplayRegs.refl s

/-! ## One draw (R142 to R145) -/

theorem flagByte_eq_one_iff (c : Bool) : flagByte c = 1 ↔ c = true := by
  cases c <;> decide

/-- The cells that rows read from memory cover: those in the box, each under its bit of its row's byte. -/
theorem rowsCover_readAll (x0 y0 : Nat) (m : Memory) (base n k : Nat) :
    rowsCover x0 y0 (m.readAll base n) k =
      (decide (k < 2048 ∧ x0 ≤ k % 64 ∧ k % 64 < x0 + 8 ∧ y0 ≤ k / 64 ∧ k / 64 < y0 + n) &&
        (m.read (base + (k / 64 - y0))).getLsbD (7 - (k % 64 - x0))) := by
  rw [rowsCover, rowCovers, Memory.length_readAll]
  by_cases hrow : y0 ≤ k / 64 ∧ k / 64 < y0 + n
  · have hbyte : (m.readAll base n).getD (k / 64 - y0) 0 = m.read (base + (k / 64 - y0)) := by
      rw [List.getD_eq_getElem _ _ (by rw [Memory.length_readAll]; omega), Memory.getElem_readAll]
    simp only [hbyte, hrow, and_true, true_and, decide_true, Bool.true_and]
  · simp only [hrow, and_false, decide_false, Bool.false_and]

/-- The blitter flips exactly the cells the sprite covers, and collides if one of them was on. -/
theorem drawnCanvas_spec (s : State) (x y : Reg) (n : Nat) :
    (∀ k, displayCell (drawnCanvas s x y n).1 k = (s.cell k ^^ spriteCovers s x y n k)) ∧
      ((drawnCanvas s x y n).2 = true ↔ ∃ k, spriteCovers s x y n k = true ∧ s.cell k = true) := by
  have hcover : ∀ k, rowsCover (originColumn (s.reg x)) (originRow (s.reg y)) (s.memory.readAll s.I.toNat n) k =
      spriteCovers s x y n k := rowsCover_readAll _ _ _ _ _
  obtain ⟨hcell, hhit⟩ := drawRows_spec (originColumn (s.reg x)) (originRow (s.reg y))
    (s.memory.readAll s.I.toNat n) (s.display, false)
  simp only [hcover, Bool.false_eq_true, false_or] at hcell hhit
  exact ⟨hcell, hhit⟩

/-- Settles O41: in range DRW writes the drawn canvas, its display and its collision, and nothing else. -/
theorem drwFlipsExactlyTheCoveredCells : Obligations.DrwFlipsExactlyTheCoveredCells := by
  intro s x y n hrange
  have hfits : n.val = 0 ∨ s.I.toNat + n.val ≤ 4096 := hrange.imp_right Nat.le_add_of_sub_le
  obtain ⟨hcell, hhit⟩ := drawnCanvas_spec s x y n.val
  refine ⟨_, exec_drw n hfits, ?cells, ?binary, ?collision, ?registers, ?frame⟩
  case cells => exact hcell
  case binary =>
    rw [State.reg_writeV, if_pos rfl]
    exact flagByte_eq_zero_or_one _
  case collision => rw [State.reg_writeV, if_pos rfl, flagByte_eq_one_iff, hhit]
  case registers =>
    intro r hr
    rw [State.reg_writeV, if_neg hr, State.reg_writeDisplay]
  case frame =>
    rw [sameButDisplayRegs_writeV, sameButDisplayRegs_writeDisplay]
    exact SameButDisplayRegs.refl s

/-! ## Two draws of one sprite (R146; log 30) -/

/-- What a sprite covers depends on the position registers, `I` and memory alone. -/
theorem spriteCovers_congr {s t : State} {x y : Reg} (hx : t.reg x = s.reg x) (hy : t.reg y = s.reg y) (hI : t.I = s.I)
    (hmem : SameMemory s t) (n k : Nat) : spriteCovers t x y n k = spriteCovers s x y n k := by
  rw [spriteCovers, spriteCovers, hx, hy, hI, hmem]

/-- Settles O42: the second draw covers the same cells as the first, which flipped them, so it meets a cell that is on exactly
where the first met one that was off. -/
theorem drawingTwiceRestoresTheDisplay : Obligations.DrawingTwiceRestoresTheDisplay := by
  intro s x y n hx hy hrange
  obtain ⟨t, hfirst, hflipped, -, -, hregs, hI, -, -, hmem, -⟩ := drwFlipsExactlyTheCoveredCells s x y n hrange
  have hindex : indexAddr t.advancePc = indexAddr s := congrArg BitVec.toNat hI
  have hcover : ∀ k, spriteCovers t.advancePc x y n.val k = spriteCovers s x y n.val k :=
    spriteCovers_congr (hregs x hx) (hregs y hy) hI hmem n.val
  have hcell : ∀ k, t.advancePc.cell k = (s.cell k ^^ spriteCovers s x y n.val k) := hflipped
  obtain ⟨u, hsecond, hflippedBack, hbinary, hcollision, -⟩ :=
    drwFlipsExactlyTheCoveredCells t.advancePc x y n (by rwa [hindex])
  refine ⟨t, u, hfirst, hsecond, fun k => ?_, hbinary, hcollision.trans (exists_congr fun k => ?_)⟩
  · rw [hflippedBack, hcover, hcell, Bool.xor_assoc, Bool.xor_self, Bool.xor_false]
  · rw [hcover, hcell, and_congr_right_iff]
    intro hcovered
    rw [hcovered, Bool.xor_true, Bool.not_eq_true']

end Sys2Proof.Machine
end

section
/-! SUPPORT. The proofs of the keypad and timer family (spec/45_keypad_timers.md): the two timers under `Tick` and under their
loads, the key skips and the wait for a key. -/

namespace Sys2Proof.Machine

/-! ## Counting down (R157, D10) -/

section Ticks

variable {s : State}

/-- The floor at 0 is that of natural-number subtraction. -/
@[simp] theorem countDown_toNat (b : Byte) : (countDown b).toNat = b.toNat - 1 := by
  rw [countDown]
  split
  case isTrue h => rw [h]; rfl
  case isFalse h => bv_omega

@[simp] theorem hostTick_DT_toNat : (hostTick s).DT.toNat = s.DT.toNat - 1 := countDown_toNat s.DT
@[simp] theorem hostTick_ST_toNat : (hostTick s).ST.toNat = s.ST.toNat - 1 := countDown_toNat s.ST

theorem iterate_hostTick_ST_toNat (s : State) (k : Nat) : (hostTick^[k] s).ST.toNat = s.ST.toNat - k := by
  induction k with
  | zero => rfl
  | succ k ih => rw [Function.iterate_succ_apply', hostTick_ST_toNat, ih, Nat.sub_sub]

theorem State.soundOn_iff : s.soundOn = true ↔ s.ST ≠ 0 := by
  rw [State.soundOn, decide_eq_true_iff]
  bv_omega

end Ticks

/-- Settles O22: after k ticks ST holds k less, and the sound is on while that is not 0. -/
theorem soundStaysOnForExactlyStTicks : Obligations.SoundStaysOnForExactlyStTicks := by
  intro s k
  rw [State.soundOn, iterate_hostTick_ST_toNat]
  exact decide_eq_decide.mpr Nat.sub_pos_iff_lt

/-- Settles O21: the operation writes the two timers, each counted down, and the fault latch is not consulted (D19). -/
theorem tickCountsBothTimersDown : Obligations.TickCountsBothTimersDown := by
  intro s rest hs
  refine ⟨hostTick (s.writeScript rest), step_cons hs, hostTick_DT_toNat, hostTick_ST_toNat, ?_,
    rfl, rfl, rfl, rfl, rfl, rfl⟩
  exact sameEngine_writeScript.mpr (SameEngine.refl (hostTick s))

/-! ## Timer transfers (R153 to R155) -/

section TimerFrame

variable {s t : State}

theorem SameButTimers.refl (s : State) : SameButTimers s s :=
  ⟨fun _ => rfl, rfl, rfl, ⟨rfl, fun _ => rfl⟩, fun _ => rfl, fun _ => rfl, rfl, rfl, rfl, rfl, rfl, rfl, rfl⟩

@[simp] theorem sameButTimers_writeDT {b : Byte} : SameButTimers s (t.writeDT b) ↔ SameButTimers s t := Iff.rfl

@[simp] theorem sameButTimers_writeST {b : Byte} : SameButTimers s (t.writeST b) ↔ SameButTimers s t := Iff.rfl

end TimerFrame

/-- Settles O45: each writes one register, and the sound is on where the ST written is not 0. -/
theorem timerTransfersCopyOneRegister : Obligations.TimerTransfersCopyOneRegister := by
  intro s x
  refine ⟨?ldVxDt, ?ldDtVx, ?ldStVx⟩
  case ldVxDt => exact writesOnlyReg_of_writeV rfl rfl
  case ldDtVx => exact ⟨s.writeDT (s.reg x), rfl, rfl, rfl, sameButTimers_writeDT.mpr (SameButTimers.refl s)⟩
  case ldStVx =>
    exact ⟨s.writeST (s.reg x), rfl, rfl, rfl, sameButTimers_writeST.mpr (SameButTimers.refl s), State.soundOn_iff⟩

/-! ## Keys (R150 to R152) -/

/-- Settles O43: both skips are one form, on the key's level or on its negation. -/
theorem keySkipsTestTheNamedKey : Obligations.KeySkipsTestTheNamedKey := by
  intro s x hx
  have hskp := writesOnlyPc_of_skipIf (exec_skp hx)
  have hsknp := writesOnlyPc_of_skipIf (exec_sknp hx)
  simp only [beq_iff_eq, ← Bool.not_eq_true, ite_not] at hskp hsknp
  exact ⟨hskp, hsknp⟩

/-- Moving `pc` back by 2 is adding 65534 modulo 65536. -/
theorem State.rewindPc_pc_toNat (s : State) : s.rewindPc.pc.toNat = (s.pc.toNat + 65534) % 65536 := by
  rw [State.rewindPc_pc]
  bv_omega

/-- Settles O44: the scan of the keys finds the least one down, or none. -/
theorem waitForKeyTakesTheLeastKey : Obligations.WaitForKeyTakesTheLeastKey := by
  intro s x
  constructor
  · intro k hk hdown hleast
    have hfirst : firstKeyDown s = some k := firstKeyDown_eq_some.mpr ⟨hk, hdown, hleast⟩
    have hbyte : (BitVec.ofNat 8 k).toNat = k := by rw [BitVec.toNat_ofNat, Nat.mod_eq_of_lt (by omega)]
    exact writesOnlyReg_of_writeV (exec_ldVxK_of_down hfirst) hbyte
  · intro hup
    exact writesOnlyPc_of_writePc (exec_ldVxK_of_none (firstKeyDown_eq_none.mpr hup)) (State.rewindPc_pc_toNat s)

end Sys2Proof.Machine
end

section
/-! SUPPORT. The proofs of the exceptions family (spec/60_exceptions.md): when an instruction latches a fault and what else it
writes, which step stops the model, and what a halted engine still does. -/

namespace Sys2Proof.Machine

/-! ## The faults of an instruction (R160 to R163, R165) -/

section Latch

variable {i : Instr} {s t : State}

theorem SameButFault.writeFault (s : State) (c : FaultCode) : SameButFault s (s.writeFault c) :=
  ⟨fun _ => rfl, rfl, rfl, ⟨rfl, fun _ => rfl⟩, fun _ => rfl, fun _ => rfl, ⟨rfl, rfl⟩, rfl, rfl, rfl, rfl, rfl, rfl⟩

/-- Of the effects of an instruction, taking a fault alone writes the latch. -/
theorem Effect.fault_eq (h : Effect i s t) (hok : raisedBy i s = .none) : t.fault = s.fault := by
  cases h with
  | fault hraised => exact absurd hok hraised
  | _ => rfl

end Latch

/-- Settles O13: a listed cause latches its code, and where there is none the latch is not written. -/
theorem faultsAreExactlyTheList : Obligations.FaultsAreExactlyTheList := by
  intro i s t hf h
  by_cases hok : raisedBy i s = .none
  · rw [(effect_of_exec h).fault_eq hok, hf, hok]
  · obtain rfl := Host.Outcome.next.inj ((exec_eq_fault hok).symm.trans h)
    rfl

/-- Settles O14: the answer is the state before with the latch written. -/
theorem faultingInstructionWritesOnlyTheLatch : Obligations.FaultingInstructionWritesOnlyTheLatch :=
  fun _ s hraised => ⟨_, exec_eq_fault hraised, rfl, SameButFault.writeFault s _⟩

/-! ## What stops the model (R172, R184, D22) -/

section Answers

variable {s : State} {bytes : List Byte}

theorem hostLoad_of_permitted (h : s.loadPermitted = true) : hostLoad bytes s =
    .next (((loadProgram bytes s).1.writeLoadPermitted false).writeLoadResult (some (loadProgram bytes s).2)) :=
  if_pos h

theorem hostLoad_of_not_permitted (h : s.loadPermitted = false) : hostLoad bytes s = .fault .loadOutOfOrder :=
  if_neg (ne_true_of_eq_false h)

theorem exec_answers (i : Instr) (s : State) : ∃ t, exec i s = .next t := by
  obtain ⟨t, h, -⟩ := exec_effect i s
  exact ⟨t, h⟩

theorem hostStep_answers (keys : BitVec 16) (rnd : Byte) (s : State) : ∃ t, hostStep keys rnd s = .next t := by
  rcases hostStep_cases keys rnd s with ⟨-, heq⟩ | ⟨-, -, heq⟩ | ⟨-, -, ⟨u, -, heq⟩ | ⟨i, -, heq⟩⟩
  · exact ⟨_, heq⟩
  · exact ⟨_, heq⟩
  · exact ⟨_, heq⟩
  · exact heq ▸ exec_answers i _

theorem perform_answers_or_stops (op : HostOp) (s : State) :
    (∃ t, perform op s = .next t) ∨
      (s.loadPermitted = false ∧ (∃ bytes, op = .load bytes) ∧ perform op s = .fault .loadOutOfOrder) := by
  cases op with
  | reset => exact .inl ⟨_, rfl⟩
  | tick => exact .inl ⟨_, rfl⟩
  | step keys rnd => exact .inl (hostStep_answers keys rnd s)
  | load bytes =>
    by_cases hload : s.loadPermitted = true
    · exact .inl ⟨_, hostLoad_of_permitted hload⟩
    · have hnoload := Bool.eq_false_of_not_eq_true hload
      exact .inr ⟨hnoload, ⟨bytes, rfl⟩, hostLoad_of_not_permitted hnoload⟩

/-- An operation other than a `Step` is performed only where the script names it (log 1). -/
theorem head?_script_of_nextOp {op : HostOp} (h : (nextOp s).1 = op) (hop : ∀ keys rnd, op ≠ .step keys rnd) :
    s.script.head? = some op := by
  rcases hs : s.script with _ | ⟨first, rest⟩
  · rw [nextOp_nil hs] at h
    exact absurd h.symm (hop _ _)
  · rw [nextOp_cons hs] at h
    exact congrArg some h

theorem nextOp_loadPermitted (s : State) : (nextOp s).2.loadPermitted = s.loadPermitted := by rw [nextOp_state]; rfl

theorem nextOp_fault (s : State) : (nextOp s).2.fault = s.fault := by rw [nextOp_state]; rfl

end Answers

/-- Settles O12: every operation answers but a `Load` that is not permitted, which the script must have named. -/
theorem onlyALoadOutOfOrderStops : Obligations.OnlyALoadOutOfOrderStops := by
  refine ⟨exec_answers, fun s => ?_⟩
  rcases perform_answers_or_stops (nextOp s).1 (nextOp s).2 with hnext | ⟨hload, ⟨bytes, hop⟩, hstop⟩
  · exact .inl hnext
  · have hhead := head?_script_of_nextOp hop nofun
    obtain ⟨rest, hscript⟩ := List.head?_eq_some_iff.mp hhead
    exact .inr ⟨nextOp_loadPermitted s ▸ hload, ⟨bytes, rest, hscript⟩, hstop⟩

/-! ## A halted engine (R85, R164, D2, D19) -/

section Halted

variable {s t : State}

/-- With a fault latched and no `Load` permitted, an operation other than `Reset` is a `Tick` or has no effect. -/
theorem perform_of_halted {op : HostOp} (hf : s.fault ≠ .none) (hload : s.loadPermitted = false) (hop : op ≠ .reset)
    (h : perform op s = .next t) : (op = .tick ∧ t = hostTick s) ∨ t = s := by
  cases op with
  | reset => exact absurd rfl hop
  | load bytes => exact nomatch (hostLoad_of_not_permitted hload).symm.trans h
  | step keys rnd => exact .inr (Host.Outcome.next.inj ((hostStep_of_halted hf).symm.trans h)).symm
  | tick => exact .inl ⟨rfl, (Host.Outcome.next.inj h).symm⟩

theorem sameEngine_nextOp (s : State) : SameEngine s (nextOp s).2 := by
  rw [nextOp_state]
  exact SameEngine.refl s

/-- `Tick` writes the timers alone, and choosing it writes no part of the engine (R157). -/
theorem sameEngine_hostTick_nextOp (s : State) :
    SameEngine { s with DT := (hostTick (nextOp s).2).DT, ST := (hostTick (nextOp s).2).ST } (hostTick (nextOp s).2) := by
  rw [nextOp_state]
  exact SameEngine.refl (hostTick s)

end Halted

/-- Settles O11: the invariant shuts out a permitted `Load`, so what is left is a `Tick` or no effect. -/
theorem faultStaysUntilReset : Obligations.FaultStaysUntilReset := by
  intro s t hinv hf hreset h
  obtain ⟨-, -, -, hload⟩ := hinv
  have hop : (nextOp s).1 ≠ .reset := fun hop => hreset (head?_script_of_nextOp hop nofun)
  rcases perform_of_halted ((nextOp_fault s).symm ▸ hf) ((nextOp_loadPermitted s).trans (hload hf)) hop h with
    ⟨htick, rfl⟩ | rfl
  · have hhead := head?_script_of_nextOp htick nofun
    exact ⟨sameEngine_hostTick_nextOp s, fun hnot => absurd hhead hnot⟩
  · have ⟨hregs, hI, hpc, hstack, hmemory, hdisplay, htimers, hfault⟩ := sameEngine_nextOp s
    exact ⟨⟨hregs, hI, hpc, hstack, hmemory, hdisplay, ⟨rfl, rfl⟩, hfault⟩, fun _ => htimers⟩

end Sys2Proof.Machine
end

section
/-! SUPPORT. The proofs of the reset family (spec/70_reset_and_hazards.md): the values `Reset` leaves, and the operation
`Load`, its effect on memory and where it is permitted. -/

namespace Sys2Proof.Machine

/-! ## Loading a program (R184, R196) -/

section Load

variable {s : State} {bytes : List Byte}

theorem loadProgram_of_fits (h : bytes.length ≤ 3584) :
    loadProgram bytes s = (s.writeMemory (s.memory.writeAll 0x200 bytes), .ok) :=
  if_neg (Nat.not_lt.mpr h)

theorem loadProgram_of_too_long (h : 3584 < bytes.length) : loadProgram bytes s = (s, .capacityExceeded) := if_pos h

/-- Loading neither reads nor writes the host's operations still to come. -/
theorem loadProgram_writeScript (rest : List HostOp) :
    loadProgram bytes (s.writeScript rest) = ((loadProgram bytes s).1.writeScript rest, (loadProgram bytes s).2) := by
  rcases Nat.lt_or_ge 3584 bytes.length with h | h
  · rw [loadProgram_of_too_long h, loadProgram_of_too_long h]
  · rw [loadProgram_of_fits h, loadProgram_of_fits h]
    rfl

@[simp] theorem sameEngine_writeLoadResult {t : State} {r : Option LoadResult} :
    SameEngine s (t.writeLoadResult r) ↔ SameEngine s t := Iff.rfl

end Load

/-- Settles O19: 0x200 + 3584 is the size of memory, so a program that fits is one block write in range. -/
theorem loadPlacesTheProgramBytes : Obligations.LoadPlacesTheProgramBytes := by
  intro bytes s hwf
  refine ⟨fun hfits => ?fits, loadProgram_of_too_long⟩
  case fits =>
    have hread := Memory.read_writeAll hwf (base := 0x200) (bytes := bytes) (by omega)
    refine ⟨_, loadProgram_of_fits hfits, fun k hk => ?inside, fun a ha => ?outside, SameButMemory.writeMemory s _⟩
    case inside =>
      rw [State.byteAt_writeMemory, hread, if_pos (by omega), Nat.add_sub_cancel_left, List.getD_eq_getElem _ _ hk]
    case outside => exact (hread a).trans (if_neg (by omega))

/-- Settles O20: with the operation taken off the script, `Load` asks the permission alone. -/
theorem loadIsPermittedOnce : Obligations.LoadIsPermittedOnce := by
  intro s bytes rest hs
  have hstep : step s = hostLoad bytes (s.writeScript rest) := step_cons hs
  refine ⟨fun hload => ?permitted, fun hload => hstep.trans (hostLoad_of_not_permitted hload)⟩
  case permitted =>
    have hanswer := hstep.trans (hostLoad_of_permitted hload)
    rw [loadProgram_writeScript] at hanswer
    exact ⟨_, hanswer, by simpa using SameEngine.refl _, rfl, rfl, rfl⟩

/-! ## The reset values (R180, R183) -/

section Reset

variable {t : State}

/-- The bytes from 0x050 to 0x09F are the 80 of the fontset, all others are 0. -/
theorem resetByte_eq (a : Nat) : resetByte a = if 0x050 ≤ a ∧ a ≤ 0x09F then font.getD (a - 0x050) 0 else 0 := by
  have hrange : 0x050 ≤ a ∧ a ≤ 0x09F ↔ Config.fontBase ≤ a ∧ a < Config.fontBase + Config.fontSize := by
    simp only [Config.fontBase, Config.fontSize]
    omega
  rw [resetByte, if_congr hrange rfl rfl]

theorem holdsResetValues_reset : HoldsResetValues State.reset := by
  refine ⟨fun r => ?registers, rfl, rfl, rfl, fun k => ?stack, resetByte_eq, displayCell_blankDisplay, rfl, rfl, rfl, rfl⟩
  case registers => exact Vector.getElem_replicate r.isLt
  case stack => exact Vector.getElem_replicate k.isLt

/-- The model's own fields have no row in the reset table. -/
@[simp] theorem holdsResetValues_writeScript {ops : List HostOp} :
    HoldsResetValues (t.writeScript ops) ↔ HoldsResetValues t := Iff.rfl

@[simp] theorem holdsResetValues_writeDraws {n : Nat} : HoldsResetValues (t.writeDraws n) ↔ HoldsResetValues t := Iff.rfl

theorem hostReset_holdsResetValues (s : State) : HoldsResetValues (hostReset s) := by
  simpa [hostReset] using holdsResetValues_reset

end Reset

/-- Settles O18: `Reset` answers the reset state with the script and the draw count it found (log 28). -/
theorem resetLeavesTheResetValues : Obligations.ResetLeavesTheResetValues :=
  ⟨holdsResetValues_reset, fun s rest hs => ⟨_, step_cons hs, hostReset_holdsResetValues (s.writeScript rest), rfl⟩⟩

end Sys2Proof.Machine
end
